-- ==== Sys2Proof/Word.lean ====
section
/-! DEFINITION. The word types: SCR, the general registers and the pc are 32 bits wide (R4, R43, R44). -/

namespace Sys2Proof

/-- A 32-bit register value (R4). Bit 0 is its least significant bit (R8). -/
abbrev Word := BitVec 32

/-- One byte of instruction memory. -/
abbrev Byte := BitVec 8

end Sys2Proof
end

