-- ==== Sys2Proof/Config.lean ====
section
/-! DEFINITION. What an implementation fixes (R6) and the free values of the model. The parameters are plain data; a machine
carries its own in `State.params`, so that a statement about every state is a statement about every implementation. -/

namespace Sys2Proof

/-- The two behaviours the source admits for a disabled HVC at EL2 and a disabled SMC in Secure state (R104, R105, D16). -/
inductive DisabledAct where
  | undefined
  | nop
deriving DecidableEq, Repr

/-- When a write to SCR is seen by the rules that read it indirectly (R51, R205, D9). -/
inductive WriteSync where
  | immediate
  | lagging
deriving DecidableEq, Repr

/-- The implementation parameters of R6, fixed for the life of a run. -/
structure Params where
  /-- FEAT_AA32EL3: SCR is present (R3). -/
  haveAA32EL3 : Bool
  /-- FEAT_AA64EL3. -/
  haveAA64EL3 : Bool
  /-- FEAT_AA32EL2. -/
  haveAA32EL2 : Bool
  /-- FEAT_AA64EL2. -/
  haveAA64EL2 : Bool
  /-- FEAT_RAS: bit 15 is TERR (R24). -/
  haveRas : Bool
  /-- FEAT_RASv1p1: four more registers are trapped by TERR (R106). -/
  haveRasV1p1 : Bool
  /-- Early termination can be disabled: bit 6 is nET (R32). -/
  haveNet : Bool
  /-- HVC at EL2 with HCE 0 (R104). -/
  hvcEl2Disabled : DisabledAct
  /-- SMC in Secure state with SCD 1 (R105). -/
  smcSecureDisabled : DisabledAct
  /-- The RES0 bits that hold what is written (R39, D3). -/
  res0ReadbackMask : Word
  /-- R205, D9. -/
  scrWriteSync : WriteSync
  /-- Byte order of instruction fetch (R64, D13). -/
  instrBigEndian : Bool
deriving DecidableEq, Repr

/-- The thirteen named fields of SCR, each one bit (R21). -/
inductive Field where
  | terr | twe | twi | sif | hce | scd | net | aw | fw | ea | fiq | irq | ns
deriving DecidableEq, Repr

/-- The rules that read SCR indirectly (R51). Each makes a read of its own, so two of them may see different values of one field
(R205); R63, the fetch rule, has a draw of its own. -/
inductive Reader where
  /-- The Security state (R50). -/
  | securityState
  /-- The verdicts on WFE, WFI, HVC, SMC and error record accesses (R100 to R106). -/
  | verdict
  /-- The masking of External aborts and FIQs (R166, R167). -/
  | masking
  /-- The routing of IRQ, FIQ and External abort (R163 to R165). -/
  | routing
deriving DecidableEq, Repr

/-- What a step can draw. Each is a choice the spec leaves open. -/
inductive Draw where
  /-- Which of its candidate values a rule's indirect read of a field sees (R205). -/
  | eff (r : Reader) (f : Field)
  /-- Which SIF value a fetch sees (R63). -/
  | sifFetch
  /-- `would_sleep` of a WFE or WFI (R102). -/
  | wouldSleep
  /-- What a failed condition does to an access that would be stopped (R136). -/
  | condFail
  /-- Whether the TERR trap beats another exception on the same access (R106, U13). -/
  | errPriority
deriving DecidableEq, Repr

/-- FREE VALUE (log 14). The answer to each draw of the `n`-th step: it has no body, so nothing can be proved of its value. -/
opaque Config.free : Nat → Draw → Bool

/-- DESIGN CHOICE (log 1, unsafe). The parameters `State.reset` carries. The spec fixes none of them but the default
`SCR_WRITE_SYNC = lagging`; no statement rests on the others. -/
def Config.resetParams : Params where
  haveAA32EL3 := true
  haveAA64EL3 := false
  haveAA32EL2 := true
  haveAA64EL2 := false
  haveRas := true
  haveRasV1p1 := true
  haveNet := true
  hvcEl2Disabled := .undefined
  smcSecureDisabled := .undefined
  res0ReadbackMask := 0
  scrWriteSync := .lagging
  instrBigEndian := false

end Sys2Proof
end

