-- ==== Sys2Proof/Syntax.lean ====
section
/-! DEFINITION. The instructions: one constructor per row of spec/opcode_table.json. -/

namespace Sys2Proof

/-- The four rows of the table (R130, R131 in the A32 form of R86 and the T32 form of R87). `cond` is the A32 condition field;
a T32 form has none. `rt` is the register number `t` (R88). -/
inductive Instr where
  | mrcScrA32 (cond rt : BitVec 4)
  | mcrScrA32 (cond rt : BitVec 4)
  | mrcScrT32 (rt : BitVec 4)
  | mcrScrT32 (rt : BitVec 4)
deriving DecidableEq, Repr

end Sys2Proof
end

