-- ==== Sys2Proof/WellFormed.lean ====
section
/-! DEFINITION. Which terms are instructions of the model: `t` from 0 to 14 (R135), and for A32 a condition (R86: 0b1111 is
not one). -/

namespace Sys2Proof

/-- R135: the model admits `t` from 0 to 14. -/
def rtAdmitted (rt : BitVec 4) : Bool := rt != 15#4

/-- R86, GK9: the A32 cond value 0b1111 is not a condition. -/
def condAdmitted (cond : BitVec 4) : Bool := cond != 15#4

def Instr.wellFormed : Instr → Bool
  | .mrcScrA32 cond rt => condAdmitted cond && rtAdmitted rt
  | .mcrScrA32 cond rt => condAdmitted cond && rtAdmitted rt
  | .mrcScrT32 rt => rtAdmitted rt
  | .mcrScrT32 rt => rtAdmitted rt

end Sys2Proof
end

