-- ==== Sys2Proof/Decode.lean ====
section
/-! DEFINITION. The decoder, total on any bytes and rejecting by name, and after it the encoder. Words are numbered as
spec/opcode_table.json numbers them: a T32 pair is `hw1 ++ hw2`. The bit positions are the spec's R86 and R87 (PRESUMED there,
GK3 and GK4: log 7). -/

namespace Sys2Proof

/-- The instruction set the bytes are read in (R90). -/
inductive InstrSet where
  | a32
  | t32
deriving DecidableEq, Repr

/-- R85: MRC reads a System register, MCR writes one. -/
inductive Dir where
  | read
  | write
deriving DecidableEq, Repr

/-- The decoded term `SysRegAccess(dir, cond, coproc, opc1, Rt, CRn, CRm, opc2)` of R85; `cond` is absent in T32 (R87). -/
structure SysRegAccess where
  dir : Dir
  cond : Option (BitVec 4)
  coproc : BitVec 4
  opc1 : BitVec 3
  rt : BitVec 4
  crn : BitVec 4
  crm : BitVec 4
  opc2 : BitVec 3
deriving DecidableEq, Repr

/-- Why the decoder refuses. All four are safe: the model has no step where hardware may have one. -/
inductive DecodeError where
  /-- Fewer than the 4 bytes of R90. -/
  | tooShort
  /-- Not an MRC or MCR word at all, or an A32 word whose cond is 0b1111 (R86, R92). -/
  | notInTable
  /-- "system register not SCR" (R92). -/
  | systemRegisterNotScr
  /-- `t == 15` (R135). -/
  | rtIs15
deriving DecidableEq, Repr

/-- R82: the tuple that selects SCR. -/
def SysRegAccess.selectsScr (a : SysRegAccess) : Bool :=
  a.coproc == 0b1111#4 && a.opc1 == 0b000#3 && a.crn == 0b0001#4 && a.crm == 0b0001#4 && a.opc2 == 0b000#3

def dirOfL (l : BitVec 1) : Dir := if l == 1#1 then .read else .write

/-- The field positions R86 and R87 share: a T32 pair written `hw1 ++ hw2` has them where an A32 word has them. -/
def accessOfWord (cond : Option (BitVec 4)) (w : Word) : SysRegAccess where
  dir := dirOfL (w.extractLsb' 20 1)
  cond := cond
  coproc := w.extractLsb' 8 4
  opc1 := w.extractLsb' 21 3
  rt := w.extractLsb' 12 4
  crn := w.extractLsb' 16 4
  crm := w.extractLsb' 0 4
  opc2 := w.extractLsb' 5 3

/-- The System register access an A32 word is, if it is one (R86). -/
def accessOfA32 (w : Word) : Option SysRegAccess :=
  if w.extractLsb' 24 4 == 0b1110#4 && w.extractLsb' 4 1 == 1#1 && condAdmitted (w.extractLsb' 28 4) then
    some (accessOfWord (some (w.extractLsb' 28 4)) w)
  else none

/-- The System register access a T32 pair `hw1 ++ hw2` is, if it is one (R87). -/
def accessOfT32 (w : Word) : Option SysRegAccess :=
  if w.extractLsb' 24 8 == 0b11101110#8 && w.extractLsb' 4 1 == 1#1 then some (accessOfWord none w) else none

/-- The instruction of a term that selects SCR (R85). -/
def instrOfAccess (a : SysRegAccess) : Instr :=
  match a.dir, a.cond with
  | .read, some c => .mrcScrA32 c a.rt
  | .write, some c => .mcrScrA32 c a.rt
  | .read, none => .mrcScrT32 a.rt
  | .write, none => .mcrScrT32 a.rt

/-- R85, R92, R135: a term is admitted when its tuple is SCR's and `t` is not 15. -/
def admitAccess : Option SysRegAccess → Except DecodeError Instr
  | none => .error .notInTable
  | some a =>
    if !a.selectsScr then .error .systemRegisterNotScr
    else if !rtAdmitted a.rt then .error .rtIs15
    else .ok (instrOfAccess a)

/-- The decoder on one word, numbered as the opcode table numbers it. -/
def decodeWord (isa : InstrSet) (w : Word) : Except DecodeError Instr :=
  match isa with
  | .a32 => admitAccess (accessOfA32 w)
  | .t32 => admitAccess (accessOfT32 w)

/-- Four bytes, lowest address first, as a word of the table's numbering: an A32 word is one 32-bit unit, a T32 pair is two
16-bit units, the first at the lower address; each unit in the byte order INSTR_BIG_ENDIAN says (R64). -/
def wordOfBytes (isa : InstrSet) (bigEndian : Bool) (b0 b1 b2 b3 : Byte) : Word :=
  match bigEndian, isa with
  | true, _ => b0 ++ b1 ++ b2 ++ b3
  | false, .a32 => b3 ++ b2 ++ b1 ++ b0
  | false, .t32 => b1 ++ b0 ++ b3 ++ b2

/-- The decoder on bytes: the instruction and the bytes after it. -/
def decode (isa : InstrSet) (bigEndian : Bool) : List Byte → Except DecodeError (Instr × List Byte)
  | b0 :: b1 :: b2 :: b3 :: rest =>
    match decodeWord isa (wordOfBytes isa bigEndian b0 b1 b2 b3) with
    | .ok i => .ok (i, rest)
    | .error e => .error e
  | _ => .error .tooShort

/-! ## The encoder, from the same tables -/

/-- The instruction set an instruction belongs to (the table's `format`). -/
def Instr.isa : Instr → InstrSet
  | .mrcScrA32 _ _ => .a32
  | .mcrScrA32 _ _ => .a32
  | .mrcScrT32 _ => .t32
  | .mcrScrT32 _ => .t32

/-- R86 with the values of R82: cond, 1110, opc1, L, CRn, Rt, coproc, opc2, 1, CRm, most significant first. -/
def wordA32 (cond : BitVec 4) (l : BitVec 1) (rt : BitVec 4) : Word :=
  cond ++ 0b1110#4 ++ 0b000#3 ++ l ++ 0b0001#4 ++ rt ++ 0b1111#4 ++ 0b000#3 ++ 1#1 ++ 0b0001#4

/-- R87 with the values of R82: `hw1` is 11101110, opc1, L, CRn; `hw2` is Rt, coproc, opc2, 1, CRm. -/
def wordT32 (l : BitVec 1) (rt : BitVec 4) : Word :=
  0b11101110#8 ++ 0b000#3 ++ l ++ 0b0001#4 ++ rt ++ 0b1111#4 ++ 0b000#3 ++ 1#1 ++ 0b0001#4

/-- The word of an instruction (R86, R87; L is 1 for MRC and 0 for MCR). -/
def encode : Instr → Word
  | .mrcScrA32 cond rt => wordA32 cond 1#1 rt
  | .mcrScrA32 cond rt => wordA32 cond 0#1 rt
  | .mrcScrT32 rt => wordT32 1#1 rt
  | .mcrScrT32 rt => wordT32 0#1 rt

/-- The bytes of a word, lowest address first: the inverse of `wordOfBytes`. -/
def bytesOfWord (isa : InstrSet) (bigEndian : Bool) (w : Word) : List Byte :=
  let b3 : Byte := w.extractLsb' 24 8
  let b2 : Byte := w.extractLsb' 16 8
  let b1 : Byte := w.extractLsb' 8 8
  let b0 : Byte := w.extractLsb' 0 8
  match bigEndian, isa with
  | true, _ => [b3, b2, b1, b0]
  | false, .a32 => [b0, b1, b2, b3]
  | false, .t32 => [b2, b3, b0, b1]

/-- The bytes of an instruction, lowest address first. -/
def encodeBytes (bigEndian : Bool) (i : Instr) : List Byte := bytesOfWord i.isa bigEndian (encode i)

/-! ## Reading a word of the opcode table -/

/-- DESIGN CHOICE (log 6). A table word carries no instruction set, and a T32 word is also the A32 word with cond 0b1110: it is
read as T32 where the T32 decoder accepts it, as A32 otherwise. -/
def tableIsa (w : Word) : InstrSet :=
  match decodeWord .t32 w with
  | .ok _ => .t32
  | .error _ => .a32

/-- The table's `nbits` bits as a word, the bits above them zero. -/
def tableWord (nbits w : Nat) : Word := BitVec.ofNat 32 (w % 2 ^ nbits)

/-- The instruction the decoder reads from a table word, laid out as the hardware stores it. -/
def decodeTableWord (nbits w : Nat) : Option Instr :=
  let v := tableWord nbits w
  match decode (tableIsa v) false (bytesOfWord (tableIsa v) false v) with
  | .ok (i, _) => some i
  | .error _ => none

end Sys2Proof
end

