-- ==== Sys2Proof/Machine/State.lean ====
section
/-! DEFINITION. The machine's state as plain data, its fault and refusal reasons, and the state after reset. -/

namespace Sys2Proof.Machine

/-! ## What the PE executes beside the opcode table -/

/-- The Exception levels, values of `PSTATE.EL` (R11, R13). -/
inductive EL where
  | el0 | el1 | el2 | el3
deriving DecidableEq, Repr

/-- The four ways an error record register is accessed (R49, R106). -/
inductive ErrKind where
  | mrc | mcr | mrrc | mcrr
deriving DecidableEq, Repr

/-- The error record registers R106 names; `other` is a register outside its list. -/
inductive ErrReg where
  | erridr | errselr | erxaddr | erxaddr2 | erxctlr | erxctlr2 | erxfr | erxfr2
  | erxmisc0 | erxmisc1 | erxmisc2 | erxmisc3 | erxmisc4 | erxmisc5 | erxmisc6 | erxmisc7
  | erxstatus | other
deriving DecidableEq, Repr

/-- The instructions the source names without any encoding (R93), as abstract terms. `cond` is the condition field, absent
where the form has none. -/
inductive UnencodedInsn where
  | wfe (cond : Option (BitVec 4))
  | wfi (cond : Option (BitVec 4))
  | hvc
  | smc
  | errAccess (kind : ErrKind) (reg : ErrReg)
deriving DecidableEq, Repr

/-- The asynchronous exceptions (R160); `externalAbort` includes SError (C2). -/
inductive AsyncKind where
  | irq | fiq | externalAbort
deriving DecidableEq, Repr

/-- The modes asynchronous exceptions are taken to (R160). -/
inductive AsyncTarget where
  | irqMode | fiqMode | abortMode | monitorMode
deriving DecidableEq, Repr

/-- What a Monitor Trap reports: the instruction for TWE and TWI, the EC syndrome value for TERR (R160, R162). -/
inductive TrapCause where
  | wfe | wfi | ec03 | ec04
deriving DecidableEq, Repr

/-- Where an Undefined Instruction exception is taken (R170). -/
inductive UndefTaken where
  /-- HVC at Non-secure EL1 with HCE 0. -/
  | fromPl1ToPl1
  /-- SMC in Non-secure state with SCD 1: from the current Exception level to itself. -/
  | atCurrentEl (el : EL)
  /-- Every other case: the source does not say. -/
  | notSaid
deriving DecidableEq, Repr

/-! ## The inputs of a step -/

/-- The environment record `env` (R53): what the rules read and the source does not describe. No rule writes it. -/
structure Env where
  el : EL
  modeIsMonitor : Bool
  modeIsSecurePl1NotMonitor : Bool
  secure : Bool
  pstateA : Bool
  pstateF : Bool
  condPassed : Bool
  hcrTge : Bool
  hcrAmo : Bool
  hcrFmo : Bool
  wfeTrappedLower : Bool
  wfiTrappedLower : Bool
  hstrT1 : Bool
  hstrEl2T1 : Bool
  el2Enabled : Bool
  el2Aarch32 : Bool
  el3Aarch32 : Bool
  wakeupPending : Bool
  errOtherException : Bool
  fetchFromNonsecure : Bool
  irqPending : Bool
  fiqPending : Bool
  abortPending : Bool
  irqMasked : Bool
  fiqMaskedOther : Bool
  abortMaskedOther : Bool
deriving DecidableEq, Repr

/-- What the source leaves open at a reset (R203): the general registers, the pc, the environment, and the instruction set
the PE then reads (log 6). -/
structure Launch where
  regs : Vector Word 15
  pc : Word
  env : Env
  isa : InstrSet
deriving DecidableEq, Repr

/-- The steps of the environment (R14, R53, R63, R70, R200). -/
inductive EnvEvent where
  | contextSync
  | tlbInvalidate
  | warmReset (l : Launch)
  | envChange (e : Env)
deriving DecidableEq, Repr

/-- Whose turn it is (R14, R168, R169; log 15). -/
inductive Turn where
  /-- The PE executes the instruction at `pc`. -/
  | pe
  /-- The PE attempts an instruction the source gives no encoding; `len` is the length an embedding decoder found (R107). -/
  | attempt (i : UnencodedInsn) (len : Nat)
  /-- The PE takes a pending asynchronous exception, if it is not masked (R168). -/
  | takeAsync (k : AsyncKind)
  /-- The environment moves. -/
  | env (e : EnvEvent)
deriving DecidableEq, Repr

/-! ## The state -/

/-- A set of values of one bit. -/
structure BitSet where
  has0 : Bool
  has1 : Bool
deriving DecidableEq, Repr

/-- Instruction memory: (address, byte) pairs, addresses strictly rising. An unlisted address has no value (log 5). -/
abbrev Memory := List Host.Cell

/-- The machine's state. -/
structure State where
  /-- The implementation's parameters (R6). No step changes them. -/
  params : Params
  /-- `x[0]` to `x[14]` (R43). -/
  regs : Vector Word 15
  /-- The program counter (R44). -/
  pc : Word
  /-- SCR (R20); 0 and never written when it is absent (R3, log 33). -/
  scr : Word
  /-- The values SCR held earlier since the last ContextSync: with `scr` itself, the candidates of `SCR_eff` (R51, R205). -/
  effEarlier : List Word
  /-- The SIF values a TLB may hold (R63). -/
  tlbSif : BitSet
  /-- The environment record (R53). -/
  env : Env
  /-- Which instruction set the bytes at `pc` are read in (log 6). -/
  isa : InstrSet
  /-- The bytes instructions are fetched from (log 5). -/
  mem : Memory
  /-- An MCR outside Monitor mode has changed SCR.NS: the PE does not step further (R176, D24). -/
  nsHold : Bool
  /-- Whose turns come next; when it is empty the PE executes (log 15). -/
  schedule : List Turn
  /-- How many steps have been taken: what the free values are applied to (log 14). -/
  draws : Nat
deriving DecidableEq, Repr

/-! ## Why a step stops -/

/-- The outcomes of R160, all terminal (R172), and the model's own fault of a fetch. -/
inductive Fault where
  /-- UNDEFINED. Raised by the access check (R132), HVC (R104) and SMC (R105). Safe: entry is not described (R171). -/
  | undefined (taken : UndefTaken)
  /-- A Monitor Trap exception. Raised by WFE (R100), WFI (R101) and error record accesses (R106). Safe, as above. -/
  | monitorTrap (cause : TrapCause)
  /-- `AArch32.TakeHypTrapException(ec)`. Raised by the access check (R132). Safe, as above. -/
  | hypTrap (ec : Nat)
  /-- `AArch64.AArch32SystemAccessTrap(el, ec)`. Raised by the access check (R132). Safe, as above. -/
  | trapAArch64 (el : EL) (ec : Nat)
  /-- A Secure fetch from Non-secure memory with SIF 1 (R62). Safe, as above. -/
  | secureFetchDenied
  /-- An exception taken to EL1 or EL2 by another register's control (R100, R101, R106). Safe, as above. -/
  | lowerException
  /-- An asynchronous exception is taken (R163 to R168). Safe, as above. -/
  | taken (kind : AsyncKind) (target : AsyncTarget)
  /-- The MODEL's own: an instruction byte nothing has written was fetched (log 5). Safe. -/
  | fetchUnwritten (addr : Nat)
deriving DecidableEq, Repr

/-- Why the model gives no step. All are safe: hardware may go on where the model does not. -/
inductive Refusal where
  /-- An instruction without a meaning yet; raised by `exec` alone. -/
  | notModelled (mnemonic : String)
  /-- `t == 15`: raised by MRC and MCR (R135). -/
  | rtIs15
  /-- An A32 term with cond 0b1111: raised by MRC and MCR (R86). -/
  | condIsNotACondition
  /-- The decoder refuses the bytes at `pc`: raised by the fetch (R92, R135). -/
  | undecodable (e : DecodeError)
  /-- `pc` is not aligned for the instruction set: raised by the fetch (R65). -/
  | misalignedPc
  /-- The PE does not step after NS changed outside Monitor mode: raised by a turn of the PE (R176, D24). -/
  | nsChangedOutsideMonitor
  /-- SCR does not stop the instruction and what it then does is not in the source: raised by an attempt (D17). -/
  | proceeds (i : UnencodedInsn)
  /-- This SCR is not the control that routes: raised by taking an exception (R109). -/
  | notDecidedByScr (k : AsyncKind)
  /-- A Secure fetch from Non-secure memory with SIF 1, where this SCR is not the control: raised by a turn that fetches (R109). -/
  | fetchNotDecidedByScr
  /-- EL3 and not Secure: raised by HVC (R104, last line). -/
  | noSuchState
deriving DecidableEq, Repr

/-! ## Reset -/

/-- The machine right after a reset (R41, R200): SCR 0, SCR_eff 0, the SIF values a TLB holds the single value 0, and the launch
premises as `l` gives them (R203). -/
def State.launch (p : Params) (m : Memory) (sched : List Turn) (d : Nat) (l : Launch) : State where
  params := p
  regs := l.regs
  pc := l.pc
  scr := 0
  effEarlier := []
  tlbSif := { has0 := true, has1 := false }
  env := l.env
  isa := l.isa
  mem := m
  nsHold := false
  schedule := sched
  draws := d

/-- PRESUMED (log 4, unsafe). The environment of `State.reset`: the AArch32 family comes out of reset in Secure Supervisor mode
with its masks set; the spec gives none of it (R203). -/
def Env.atReset : Env where
  el := .el3
  modeIsMonitor := false
  modeIsSecurePl1NotMonitor := true
  secure := true
  pstateA := true
  pstateF := true
  condPassed := true
  hcrTge := false
  hcrAmo := false
  hcrFmo := false
  wfeTrappedLower := false
  wfiTrappedLower := false
  hstrT1 := false
  hstrEl2T1 := false
  el2Enabled := false
  el2Aarch32 := true
  el3Aarch32 := true
  wakeupPending := false
  errOtherException := false
  fetchFromNonsecure := false
  irqPending := false
  fiqPending := false
  abortPending := false
  irqMasked := true
  fiqMaskedOther := true
  abortMaskedOther := true

/-- DESIGN CHOICE (logs 2, 3, 4, 6, unsafe). The launch premises of `State.reset`. -/
def Launch.atReset : Launch where
  regs := Vector.replicate 15 0
  pc := 0
  env := Env.atReset
  isa := .a32

/-- The machine right after reset. -/
def State.reset : State := State.launch Config.resetParams [] [] 0 Launch.atReset

end Sys2Proof.Machine
end

