-- ==== Sys2Proof/Machine/Scr.lean ====
section
/-! DEFINITION. The fields of SCR, which of its bits are named and which are RES0, and the value a write stores. -/

namespace Sys2Proof.Machine

/-- R6, D2(b): EL2 is implemented when it supports AArch32 or AArch64. -/
def haveEL2 (p : Params) : Bool := p.haveAA32EL2 || p.haveAA64EL2

/-- R21: the bit of each named field. -/
def fieldPos : Field → Nat
  | .terr => 15
  | .twe => 13
  | .twi => 12
  | .sif => 9
  | .hce => 8
  | .scd => 7
  | .net => 6
  | .aw => 5
  | .fw => 4
  | .ea => 3
  | .fiq => 2
  | .irq => 1
  | .ns => 0

/-- R24, R30, R32: three fields are RES0 where their feature is absent. -/
def fieldPresent (p : Params) : Field → Bool
  | .terr => p.haveRas
  | .hce => haveEL2 p
  | .net => p.haveNet
  | .twe | .twi | .sif | .scd | .aw | .fw | .ea | .fiq | .irq | .ns => true

/-- The bit of a field in a value of SCR (R21). -/
def fieldBit (f : Field) (v : Word) : Bool := v.getLsbD (fieldPos f)

/-- R40, `AlwaysNamed`. -/
def alwaysNamedMask : Word := 0x000032BF#32

/-- R40, `NamedMask`. -/
def namedMask (p : Params) : Word :=
  alwaysNamedMask ||| (if p.haveRas then 0x00008000#32 else 0#32) ||| (if haveEL2 p then 0x00000100#32 else 0#32)
    ||| (if p.haveNet then 0x00000040#32 else 0#32)

/-- R40, `Res0Mask`. -/
def res0Mask (p : Params) : Word := ~~~(namedMask p)

/-- R134: named fields take the bits written, a RES0 bit inside RES0_READBACK_MASK stores the bit written, the others are 0. -/
def storedValue (p : Params) (v : Word) : Word :=
  (v &&& namedMask p) ||| (v &&& res0Mask p &&& p.res0ReadbackMask)

/-- R40: the invariant of a stored value. -/
def storable (p : Params) (v : Word) : Bool := v &&& res0Mask p &&& ~~~p.res0ReadbackMask == 0#32

end Sys2Proof.Machine
end

