-- ==== Sys2Proof/Machine/Ops.lean ====
section
/-! DEFINITION. The named operations over the state: instruction memory, the pc, indirect reads of SCR (`SCR_eff`), the write of
SCR, the environment's events, and stopping in an outcome. -/

namespace Sys2Proof.Machine

/-- What a step answers. -/
abbrev Result := Host.Outcome State Fault Refusal

/-! ## Instruction memory -/

/-- The byte at an address; none where nothing has been written (log 5). -/
def memRead : Memory → Nat → Option Byte
  | [], _ => none
  | (a, b) :: m, x => if a = x then some b else memRead m x

/-- Write one byte, keeping the addresses strictly rising. -/
def memWrite : Memory → Nat → Byte → Memory
  | [], x, v => [(x, v)]
  | (a, b) :: m, x, v =>
    if x < a then (x, v) :: (a, b) :: m
    else if x = a then (x, v) :: m
    else (a, b) :: memWrite m x v

/-- Addresses from `lo` up, strictly rising, inside the 32-bit space of the pc (R44). -/
def memSortedFrom : Nat → Memory → Bool
  | _, [] => true
  | lo, (a, _) :: m => decide (lo ≤ a) && decide (a < 2 ^ 32) && memSortedFrom (a + 1) m

/-- The canonical form of instruction memory. An unlisted address has no value, so no entry can equal one. -/
def Memory.wf (m : Memory) : Bool := memSortedFrom 0 m

/-- Write bytes at `a`, `a + 1`, …, wrapping modulo 2^32 (log 9). -/
def memWriteBytes (m : Memory) (a : Word) : List Byte → Memory
  | [] => m
  | b :: bs => memWriteBytes (memWrite m a.toNat b) (a + 1) bs

/-- Read `n` bytes at `a`, `a + 1`, …, or the first address that holds none. -/
def memReadBytes (m : Memory) (a : Word) : Nat → Except Nat (List Byte)
  | 0 => .ok []
  | n + 1 =>
    match memRead m a.toNat with
    | none => .error a.toNat
    | some b =>
      match memReadBytes m (a + 1) n with
      | .ok bs => .ok (b :: bs)
      | .error e => .error e

/-! ## The pc -/

/-- `pc <- (pc + n) mod 2^32` (R44, R107). -/
def State.advancePc (s : State) (n : Nat) : State := { s with pc := s.pc + BitVec.ofNat 32 n }

/-! ## Sets of bit values and draws from them -/

def BitSet.singleton (b : Bool) : BitSet := { has0 := !b, has1 := b }

def BitSet.union (a b : BitSet) : BitSet := { has0 := a.has0 || b.has0, has1 := a.has1 || b.has1 }

def BitSet.mem (a : BitSet) (b : Bool) : Bool := if b then a.has1 else a.has0

/-- A draw from a set: `free` decides only where the set leaves a choice. -/
def BitSet.pick (a : BitSet) (free : Bool) : Bool := if a.has0 && a.has1 then free else a.has1

/-! ## Indirect reads of SCR -/

/-- R109: this SCR is the control when it is present and EL3 is using AArch32. -/
def live (p : Params) (e : Env) : Bool := p.haveAA32EL3 && e.el3Aarch32

/-- The values of SCR an indirect read may see (R51, R205): with `immediate` the current one alone, with `lagging` every value
held since the last ContextSync. -/
def State.effCandidates (s : State) : List Word :=
  match s.params.scrWriteSync with
  | .immediate => [s.scr]
  | .lagging => s.scr :: s.effEarlier

/-- The candidate values of one field (R205). -/
def State.effSet (s : State) (f : Field) : BitSet where
  has0 := s.effCandidates.any fun v => !fieldBit f v
  has1 := s.effCandidates.any fun v => fieldBit f v

/-- `SCR_eff.F` as the rules of a reader see it in this step (R51): 0 where the field is RES0 (R39(a)), else a draw from its
candidates, each reader's its own (R205, log 12). -/
def State.eff (s : State) (r : Reader) (f : Field) : Bool :=
  fieldPresent s.params f && (s.effSet f).pick (Config.free s.draws (.eff r f))

/-- The SIF values a fetch may see (R63): those a TLB may hold and those SCR_eff may now have. -/
def State.sifSet (s : State) : BitSet := s.tlbSif.union (s.effSet .sif)

/-- `SIF_fetch` (R63). -/
def State.sifFetch (s : State) : Bool := s.sifSet.pick (Config.free s.draws .sifFetch)

/-- The Security state, `env.secure` (R50): where this SCR is the control it is Secure in Monitor mode and otherwise as NS says;
elsewhere it is a free input. It is one value for a step, as the record env is (R53, log 17). -/
def State.isSecure (s : State) : Bool :=
  if live s.params s.env then s.env.modeIsMonitor || !s.eff .securityState .ns else s.env.secure

/-! ## Writing SCR, and the environment's events -/

/-- Store a value in SCR (R131): the value it held stays a candidate of SCR_eff until the next ContextSync (R205), and the SIF
values seen so far stay possible in a TLB (R63). -/
def State.writeScr (s : State) (v : Word) : State :=
  { s with scr := v, effEarlier := s.scr :: s.effEarlier, tlbSif := s.sifSet }

/-- `SCR_eff <- SCR` (R70). A TLB keeps the SIF values seen so far (R206). -/
def State.contextSync (s : State) : State := { s with effEarlier := [], tlbSif := s.sifSet }

/-- A TLB then holds no SIF value but those SCR_eff now has (R63). -/
def State.tlbInvalidate (s : State) : State := { s with tlbSif := s.effSet .sif }

/-- A Warm reset (R200): SCR, SCR_eff and the TLB's SIF values are reset; what the source leaves open is as `l` gives it (R203).
The parameters are fixed (R6), and the model keeps its instruction memory (log 16). -/
def State.warmReset (s : State) (l : Launch) : State := State.launch s.params s.mem s.schedule s.draws l

def applyEnvEvent (e : EnvEvent) (s : State) : State :=
  match e with
  | .contextSync => s.contextSync
  | .tlbInvalidate => s.tlbInvalidate
  | .warmReset l => s.warmReset l
  | .envChange e' => { s with env := e' }

/-! ## Outcomes and steps -/

/-- Taking an exception. The source says which one and where it is taken and nothing of what taking it does (R171), so it ends
the run with nothing written (R172, D8; log 19). There is no return from one (R173). -/
def takeException (f : Fault) : Result := .fault f

/-- What every step adds: the counter of the draws moves on (log 14). -/
def afterStep : Result → Result
  | .next t => .next { t with draws := t.draws + 1 }
  | .fault f => .fault f
  | .refused r => .refused r

/-- Whose turn it is and the state in which it is taken: the first of the schedule, else the PE's. -/
def takeTurn (s : State) : Turn × State :=
  match s.schedule with
  | [] => (.pe, s)
  | t :: rest => (t, { s with schedule := rest })

/-- R176, D24: a turn of the PE, refused after NS changed outside Monitor mode. -/
def peTurn (s : State) (k : State → Result) : Result :=
  if s.nsHold then .refused .nsChangedOutsideMonitor else k s

/-- The condition of R62, on every instruction fetch: in Secure state with SIF_fetch 1, an instruction from Non-secure memory. -/
def secureFetchStopped (s : State) : Bool := s.isSecure && s.sifFetch && s.env.fetchFromNonsecure

/-- R62: a fetch that meets the condition is denied where this SCR is the control; elsewhere the model refuses it (R109, log 32). -/
def fetched (s : State) (k : State → Result) : Result :=
  if secureFetchStopped s then
    if live s.params s.env then takeException .secureFetchDenied else .refused .fetchNotDecidedByScr
  else k s

end Sys2Proof.Machine
end

