-- ==== Sys2Proof/Machine/Flags.lean ====
section
/-! DEFINITION. The PSTATE bits and the condition check. No instruction in scope writes a flag (R45, R130, R131). -/

namespace Sys2Proof.Machine

/-- The condition check (R45, R136): `AL` (0b1110) always passes; every other condition, and a form without a condition field
(whose `<c>` an IT block gives, R87), is the input `cond_passed`. -/
def conditionPassed (e : Env) (cond : Option (BitVec 4)) : Bool :=
  cond == some 0b1110#4 || e.condPassed

/-- The masking of an asynchronous exception by its PSTATE bit (R166, R167): `routed` is SCR_eff.EA or FIQ, `hcr` is HCR.AMO or
FMO, `w` is SCR_eff.AW or FW, `pstate` is PSTATE.A or F. `none` where SCR does not decide. -/
def maskedByScr (routed hcr w fromSecure pstate : Bool) : Option Bool :=
  if routed && !hcr then
    if !w then (if !fromSecure then some false else some pstate)
    else some pstate
  else none

end Sys2Proof.Machine
end

