-- ==== Sys2Proof/Machine/Controlled.lean ====
section
/-! DEFINITION. The instructions SCR traps, enables or disables: the verdict functions of 40_scr_controlled_instructions.md, and
what an attempt of one does. -/

namespace Sys2Proof.Machine

/-- The verdicts of 40_scr_controlled_instructions.md. -/
inductive Verdict where
  | monitorTrap (cause : TrapCause)
  | undefined (taken : UndefTaken)
  | nop
  | lowerException
  | proceeds
  | noSuchState
deriving DecidableEq, Repr

/-- The common shape of R100 and R101: `field` is TWE or TWI as SCR_eff has it, `lower` the exception that has priority. -/
def waitVerdict (p : Params) (e : Env) (cause : TrapCause) (passed lower field wouldSleep : Bool) : Verdict :=
  if !live p e then .proceeds
  else if !passed then .proceeds
  else if lower then .lowerException
  else if field && !e.modeIsMonitor && wouldSleep then .monitorTrap cause
  else .proceeds

/-- R100. -/
def wfeVerdict (p : Params) (e : Env) (passed twe wouldSleep : Bool) : Verdict :=
  waitVerdict p e .wfe passed e.wfeTrappedLower twe wouldSleep

/-- R101. -/
def wfiVerdict (p : Params) (e : Env) (passed twi wouldSleep : Bool) : Verdict :=
  waitVerdict p e .wfi passed e.wfiTrappedLower twi wouldSleep

/-- The two behaviours of a disabled HVC or SMC (R104, R105, D16). -/
def disabledVerdict : DisabledAct → Verdict
  | .undefined => .undefined .notSaid
  | .nop => .nop

/-- R104. -/
def hvcVerdict (p : Params) (e : Env) (secure hce : Bool) : Verdict :=
  if !haveEL2 p then .undefined .notSaid
  else if e.el == .el0 || secure then .undefined .notSaid
  else if !live p e then .proceeds
  else if hce then .proceeds
  else
    match e.el with
    | .el1 => .undefined .fromPl1ToPl1
    | .el2 => disabledVerdict p.hvcEl2Disabled
    | .el0 | .el3 => .noSuchState

/-- R105. -/
def smcVerdict (p : Params) (e : Env) (secure scd : Bool) : Verdict :=
  if e.el == .el0 then .undefined .notSaid
  else if !live p e then .proceeds
  else if !scd then .proceeds
  else if !secure then .undefined (.atCurrentEl e.el)
  else disabledVerdict p.smcSecureDisabled

/-- R106, `TrappedSet`. -/
def errTrapped (p : Params) : ErrReg → Bool
  | .erridr | .errselr | .erxaddr | .erxaddr2 | .erxctlr | .erxctlr2 | .erxfr | .erxfr2 => true
  | .erxmisc0 | .erxmisc1 | .erxmisc2 | .erxmisc3 | .erxstatus => true
  | .erxmisc4 | .erxmisc5 | .erxmisc6 | .erxmisc7 => p.haveRasV1p1
  | .other => false

/-- R106, R162, D18: 0x03 reports MRC and MCR, 0x04 reports MRRC and MCRR. -/
def errCause : ErrKind → TrapCause
  | .mrc | .mcr => .ec03
  | .mrrc | .mcrr => .ec04

/-- R106. `terr` is SCR_eff.TERR; `lowerWins` is the draw made when another exception is due on the same access. -/
def errVerdict (p : Params) (e : Env) (kind : ErrKind) (reg : ErrReg) (terr lowerWins : Bool) : Verdict :=
  if !live p e then .proceeds
  else if !(p.haveRas && terr && !e.modeIsMonitor && errTrapped p reg) then .proceeds
  else if e.errOtherException && lowerWins then .lowerException
  else .monitorTrap (errCause kind)

/-- R102: an instruction with a Wakeup event pending does not sleep; without one a draw decides. -/
def State.wouldSleep (s : State) : Bool := !s.env.wakeupPending && Config.free s.draws .wouldSleep

/-- The verdict on an instruction attempted in a state. Fields are read as SCR_eff has them (R110). DESIGN CHOICE (log 24): a WFE or
WFI term with cond 0b1111, which GK9 says is no condition, is not refused but decided by `cond_passed` like a condition. -/
def State.verdict (s : State) : UnencodedInsn → Verdict
  | .wfe cond => wfeVerdict s.params s.env (conditionPassed s.env cond) (s.eff .verdict .twe) s.wouldSleep
  | .wfi cond => wfiVerdict s.params s.env (conditionPassed s.env cond) (s.eff .verdict .twi) s.wouldSleep
  | .hvc => hvcVerdict s.params s.env s.isSecure (s.eff .verdict .hce)
  | .smc => smcVerdict s.params s.env s.isSecure (s.eff .verdict .scd)
  | .errAccess kind reg => errVerdict s.params s.env kind reg (s.eff .verdict .terr) (Config.free s.draws .errPriority)

/-- Where this SCR is the control and lets a WFE or WFI proceed: a failed condition does nothing but advance the pc (R103), and an
instruction that does not sleep completes at once (R102). Nothing else that proceeds has an effect in the source (D17). -/
def State.completesAtOnce (s : State) : UnencodedInsn → Bool
  | .wfe cond => live s.params s.env && (!conditionPassed s.env cond || !s.wouldSleep)
  | .wfi cond => live s.params s.env && (!conditionPassed s.env cond || !s.wouldSleep)
  | .hvc | .smc | .errAccess _ _ => false

/-- What the PE does with a verdict; `Nop` advances the pc by the instruction's length (R107). -/
def attempt (i : UnencodedInsn) (len : Nat) (s : State) : Result :=
  match s.verdict i with
  | .monitorTrap c => takeException (.monitorTrap c)
  | .undefined t => takeException (.undefined t)
  | .nop => .next (s.advancePc len)
  | .lowerException => takeException .lowerException
  | .proceeds => if s.completesAtOnce i then .next (s.advancePc len) else .refused (.proceeds i)
  | .noSuchState => .refused .noSuchState

end Sys2Proof.Machine
end

