-- ==== Sys2Proof/Machine/Operands.lean ====
section
/-! DEFINITION. The one operand form: a register number `t` of 4 bits, used as `x[t]` (R43, R88). -/

namespace Sys2Proof.Machine

/-- The general register a number names: 0 to 14 (R43); 15 names none (R135). -/
def regOf (t : BitVec 4) : Option (Fin 15) :=
  if h : t.toNat < 15 then some ⟨t.toNat, h⟩ else none

/-- `x[t]` (R10). -/
def State.reg (s : State) (r : Fin 15) : Word := s.regs[r.val]

/-- `x[t] <- v` (R10). No register is hardwired (R43). -/
def State.setReg (s : State) (r : Fin 15) (v : Word) : State := { s with regs := s.regs.set r.val v }

end Sys2Proof.Machine
end

