-- ==== Sys2Proof/Machine/Access.lean ====
section
/-! DEFINITION. The access instructions MRC and MCR to SCR (R130 to R141). -/

namespace Sys2Proof.Machine

/-- What the access check answers (R132). -/
inductive Access where
  | allowed
  | stop (f : Fault)
deriving DecidableEq, Repr

/-- The EC syndrome value every trap of the access listings passes (R162). -/
def accessEc : Nat := 0x03

/-- R132, the source's listing arm by arm; the order is the priority (R138). -/
def scrAccessCheck (p : Params) (e : Env) (secure : Bool) : Access :=
  if !p.haveAA32EL3 then .stop (.undefined .notSaid)
  else
    match e.el with
    | .el0 => .stop (.undefined .notSaid)
    | .el1 =>
      if e.el2Enabled && p.haveAA64EL2 && !e.el2Aarch32 && e.hstrEl2T1 then .stop (.trapAArch64 .el2 accessEc)
      else if e.el2Enabled && p.haveAA32EL2 && e.el2Aarch32 && e.hstrT1 then .stop (.hypTrap accessEc)
      else if e.el2Enabled && p.haveAA64EL2 && !e.el2Aarch32 && secure then .stop (.trapAArch64 .el2 accessEc)
      else if p.haveAA64EL3 && !e.el3Aarch32 && secure then .stop (.trapAArch64 .el3 accessEc)
      else .stop (.undefined .notSaid)
    | .el2 => .stop (.undefined .notSaid)
    | .el3 => .allowed

/-- The access check in a state. -/
def State.accessCheck (s : State) : Access := scrAccessCheck s.params s.env s.isSecure

/-- R136: a failed condition makes an access that is allowed do nothing; for one that would be stopped, a draw decides between
that and the outcome (D7). -/
def condFail (s : State) : Result :=
  match s.accessCheck with
  | .allowed => .next (s.advancePc 4)
  | .stop f => if Config.free s.draws .condFail then .next (s.advancePc 4) else takeException f

/-- The frame of both instructions (R130, R131, R135): `t == 15` is refused before any other check, then the condition, then
the access check, then the transfer. -/
def scrAccess (cond : Option (BitVec 4)) (rt : BitVec 4) (transfer : Fin 15 → State → State) (s : State) : Result :=
  match regOf rt with
  | none => .refused .rtIs15
  | some r =>
    if cond == some 0b1111#4 then .refused .condIsNotACondition
    else if !conditionPassed s.env cond then condFail s
    else
      match s.accessCheck with
      | .allowed => .next ((transfer r s).advancePc 4)
      | .stop f => takeException f

/-- R130: `x[t] <- SCR`, all 32 bits of the architected register. -/
def readScr (r : Fin 15) (s : State) : State := s.setReg r s.scr

/-- R133: NS stays 0 when an MCR in a Secure PL1 mode other than Monitor mode would set it while HCR.TGE is set. -/
def heldNs (e : Env) (old v : Word) : Word :=
  if e.hcrTge && e.modeIsSecurePl1NotMonitor && !fieldBit .ns old && fieldBit .ns v then v &&& ~~~1#32 else v

/-- R176, D24: outside Monitor mode this write changes SCR.NS. -/
def changesNsOutsideMonitor (e : Env) (old new : Word) : Bool :=
  !e.modeIsMonitor && fieldBit .ns old != fieldBit .ns new

/-- The value an MCR of `v` stores (R131: R133, then R134). -/
def State.scrAfterWrite (s : State) (v : Word) : Word := storedValue s.params (heldNs s.env s.scr v)

/-- R131: `SCR <- x[t]` through R133 and R134. -/
def writeScrFrom (r : Fin 15) (s : State) : State :=
  { s.writeScr (s.scrAfterWrite (s.reg r)) with
    nsHold := s.nsHold || changesNsOutsideMonitor s.env s.scr (s.scrAfterWrite (s.reg r)) }

/-- MRC_SCR_A32 (R130, R86). -/
def execMrcScrA32 (cond rt : BitVec 4) (s : State) : Result := scrAccess (some cond) rt readScr s

/-- MCR_SCR_A32 (R131, R86). -/
def execMcrScrA32 (cond rt : BitVec 4) (s : State) : Result := scrAccess (some cond) rt writeScrFrom s

/-- MRC_SCR_T32 (R130, R87). -/
def execMrcScrT32 (rt : BitVec 4) (s : State) : Result := scrAccess none rt readScr s

/-- MCR_SCR_T32 (R131, R87). -/
def execMcrScrT32 (rt : BitVec 4) (s : State) : Result := scrAccess none rt writeScrFrom s

end Sys2Proof.Machine
end

