-- ==== Sys2Proof/Machine/Dispatch.lean ====
section
/-! DEFINITION. One arm per instruction. -/

namespace Sys2Proof.Machine

def exec (i : Instr) (s : State) : Host.Outcome State Fault Refusal :=
  match i with
  | .mrcScrA32 cond rt => Sys2Proof.Machine.execMrcScrA32 cond rt s
  | .mcrScrA32 cond rt => Sys2Proof.Machine.execMcrScrA32 cond rt s
  | .mrcScrT32 rt => Sys2Proof.Machine.execMrcScrT32 rt s
  | .mcrScrT32 rt => Sys2Proof.Machine.execMcrScrT32 rt s

end Sys2Proof.Machine
end

