-- ==== Sys2Proof/Machine/Fetch.lean ====
section
/-! DEFINITION. Fetching an instruction's bytes and decoding them. -/

namespace Sys2Proof.Machine

/-- R65: an A32 word is word-aligned, a T32 pair halfword-aligned. -/
def pcAligned (isa : InstrSet) (pc : Word) : Bool :=
  match isa with
  | .a32 => pc.extractLsb' 0 2 == 0#2
  | .t32 => pc.extractLsb' 0 1 == 0#1

/-- The instruction at `pc`, handed to `k`: refused where `pc` is misaligned (R65), a fault where a byte has no value (log 5),
refused by name where the decoder refuses (R92). -/
def withInstrAt (s : State) (k : Instr → Result) : Result :=
  if !pcAligned s.isa s.pc then .refused .misalignedPc
  else
    match memReadBytes s.mem s.pc 4 with
    | .error a => .fault (.fetchUnwritten a)
    | .ok bs =>
      match decode s.isa s.params.instrBigEndian bs with
      | .ok (i, _) => k i
      | .error e => .refused (.undecodable e)

/-- The address at or below `pc` that an instruction of `isa` may stand at. -/
def alignDown (isa : InstrSet) (pc : Word) : Word :=
  match isa with
  | .a32 => pc &&& ~~~3#32
  | .t32 => pc &&& ~~~1#32

/-- A table word placed where the next step fetches (log 5): its instruction set is read, its bytes stand at `pc`, and whatever
would keep the PE from fetching them next is put out of the way: a turn before the PE's, a misaligned `pc`, the hold of D24, a
fetch from Non-secure memory. -/
def placeWord (s : State) (w : Word) : State :=
  let pc := alignDown (tableIsa w) s.pc
  { s with
    isa := tableIsa w
    pc := pc
    mem := memWriteBytes s.mem pc (bytesOfWord (tableIsa w) s.params.instrBigEndian w)
    nsHold := false
    env := { s.env with fetchFromNonsecure := false }
    schedule := match s.schedule with
      | [] => []
      | t :: rest => .pe :: t :: rest }

end Sys2Proof.Machine
end

