-- ==== Sys2Proof/Machine/Routing.lean ====
section
/-! DEFINITION. The SCR's share of the routing and masking of IRQ, FIQ and External abort (R163 to R168). -/

namespace Sys2Proof.Machine

/-- The routing field of a kind (R163, R164, R165). -/
def routeField : AsyncKind → Field
  | .irq => .irq
  | .fiq => .fiq
  | .externalAbort => .ea

/-- The mode that takes a kind: Monitor mode where its field is 1, its own mode where it is 0 (R163, R164, R165). -/
def asyncTarget (k : AsyncKind) (routed : Bool) : AsyncTarget :=
  if routed then .monitorMode
  else
    match k with
    | .irq => .irqMode
    | .fiq => .fiqMode
    | .externalAbort => .abortMode

/-- `irq_pending`, `fiq_pending`, `abort_pending` (R168). -/
def asyncPending (e : Env) : AsyncKind → Bool
  | .irq => e.irqPending
  | .fiq => e.fiqPending
  | .externalAbort => e.abortPending

/-- Whether a kind is masked: an IRQ by the input `irq_masked` (R163), an External abort by R166 and an FIQ by R167, which take
an input where SCR does not decide. DESIGN CHOICE (log 31): which External aborts can be held pending, so masked, R165 leaves
unidentified; the model masks every External abort and SError as one kind. -/
def State.asyncMasked (s : State) : AsyncKind → Bool
  | .irq => s.env.irqMasked
  | .fiq => (maskedByScr (s.eff .masking .fiq) s.env.hcrFmo (s.eff .masking .fw) s.isSecure s.env.pstateF).getD s.env.fiqMaskedOther
  | .externalAbort =>
    (maskedByScr (s.eff .masking .ea) s.env.hcrAmo (s.eff .masking .aw) s.isSecure s.env.pstateA).getD s.env.abortMaskedOther

/-- A turn that takes a kind (R168): one that is not pending or is masked is not taken and changes nothing; one that is pending is
refused where this SCR does not decide (R109). The mask and the target are two indirect reads of FIQ or EA, which may differ while
a write lags (R205). -/
def takeAsync (k : AsyncKind) (s : State) : Result :=
  if !asyncPending s.env k then .next s
  else if !live s.params s.env then .refused (.notDecidedByScr k)
  else if s.asyncMasked k then .next s
  else takeException (.taken k (asyncTarget k (s.eff .routing (routeField k))))

end Sys2Proof.Machine
end

