-- ==== Sys2Proof/Machine/Turns.lean ====
section
/-! DEFINITION. What each turn of the schedule does (R14, R169). -/

namespace Sys2Proof.Machine

/-- The PE executes the instruction at `pc`: D24, then R62 on its fetch, then the instruction. DESIGN CHOICE (log 38, unsafe): the spec
gives no order between D24's refusal, R62's denial and R65's refusal of a misaligned pc (R169), so that a fetch R62 stops from a
misaligned pc is denied is the model's own order. -/
def peStep (s : State) : Result := peTurn s fun s => fetched s fun s => withInstrAt s fun i => exec i s

/-- One turn. The PE's turns are gated by D24 and its instruction fetches by R62; the environment's are not. DESIGN CHOICE (log 27):
an attempt stands for an instruction that has been fetched and decoded, so R62 applies to it, but it has no bytes here and its pc is
not checked for alignment. -/
def runTurn (t : Turn) (s : State) : Result :=
  match t with
  | .pe => peStep s
  | .attempt i len => peTurn s fun s => fetched s fun s => attempt i len s
  | .takeAsync k => peTurn s fun s => takeAsync k s
  | .env e => .next (applyEnvEvent e s)

end Sys2Proof.Machine
end

