-- ==== Sys2Proof/Safety.lean ====
section
/-! DEFINITION. The words the statements are written in: the invariant of the machine, the consistency the spec asks of an
environment, and when an access to SCR is executed. -/

namespace Sys2Proof.Machine

/-- What every step keeps: SCR and the values it held store nothing outside the bits that exist (R40), an absent SCR holds
nothing, nor a TLB a SIF of 1 (R3, log 33), and instruction memory is in its canonical form. -/
structure State.Inv (s : State) : Prop where
  scr_storable : storable s.params s.scr = true
  earlier_storable : ∀ v ∈ s.effEarlier, storable s.params v = true
  absent_is_zero : s.params.haveAA32EL3 = false → s.scr = 0#32 ∧ (∀ v ∈ s.effEarlier, v = 0#32) ∧ s.tlbSif.has1 = false
  mem_wf : Memory.wf s.mem = true

/-- R39(b), GK15: what the spec asks of the parameters. -/
def paramsAdmissible (p : Params) : Bool :=
  p.res0ReadbackMask &&& namedMask p == 0#32 && (!p.haveRasV1p1 || p.haveRas)

/-- R46, R53: the consistency the spec asks of an environment (GK6). The model does not enforce it (log 18). -/
def envConsistent (e : Env) : Bool :=
  (!e.modeIsMonitor || (e.secure && e.el == .el3))
    && (!e.modeIsSecurePl1NotMonitor || (e.secure && !e.modeIsMonitor))
    && (e.el != .el3 || (e.secure && e.el3Aarch32))
    && (e.el != .el2 || !e.el3Aarch32 || !e.secure)
    && (e.el != .el1 || !e.el3Aarch32 || !e.secure)

/-- R50: the environment's `secure` is what SCR_eff.NS and the mode make it. -/
def State.secureConsistent (s : State) : Bool := s.env.secure == s.isSecure

/-- SCR_eff is SCR: writes are seen at once, or a ContextSync has come since the last one (R51). -/
def State.Synced (s : State) : Prop := s.params.scrWriteSync = .immediate ∨ s.effEarlier = []

/-- The only case in which an access to SCR is allowed (R132). -/
def State.CanAccessScr (s : State) : Prop := s.params.haveAA32EL3 = true ∧ s.env.el = .el3

/-- The condition of an instruction, absent in T32 (R86, R87). -/
def instrCond : Instr → Option (BitVec 4)
  | .mrcScrA32 cond _ => some cond
  | .mcrScrA32 cond _ => some cond
  | .mrcScrT32 _ => none
  | .mcrScrT32 _ => none

/-- MRC or MCR, in both instruction sets. -/
def instrDir : Instr → Dir
  | .mrcScrA32 _ _ => .read
  | .mcrScrA32 _ _ => .write
  | .mrcScrT32 _ => .read
  | .mcrScrT32 _ => .write

/-- The register number `t`. -/
def instrRt : Instr → BitVec 4
  | .mrcScrA32 _ rt => rt
  | .mcrScrA32 _ rt => rt
  | .mrcScrT32 rt => rt
  | .mcrScrT32 rt => rt

/-- The instruction passes its condition check in a state. -/
def passes (i : Instr) (s : State) : Bool := conditionPassed s.env (instrCond i)

/-- A turn in which the PE does not execute an instruction of the table and no reset happens. -/
def Turn.quiet : Turn → Bool
  | .pe => false
  | .env (.warmReset _) => false
  | .attempt _ _ => true
  | .takeAsync _ => true
  | .env .contextSync => true
  | .env .tlbInvalidate => true
  | .env (.envChange _) => true

/-- The turn is a Warm reset. -/
def Turn.isReset : Turn → Bool
  | .env (.warmReset _) => true
  | _ => false

/-- The turn is one that removes SIF values from a TLB (R63). -/
def Turn.clearsTlb : Turn → Bool
  | .env (.warmReset _) => true
  | .env .tlbInvalidate => true
  | _ => false

end Sys2Proof.Machine
end

