-- ==== Sys2Proof/Certificates/Slice0/Obligations.lean ====
section
/-! DEFINITION. What is claimed of the machine. Each statement holds for every state, so for every implementation (the
parameters are a field of the state), every environment and every free value. -/

open Sys2Proof Sys2Proof.Machine

/-! ## Encoding -/

/-- The words of 95 section 2.4, decoded (rows E1 to E5, E14, E15) and refused (E6 to E13, E16, E17). -/
def Obligations.WordsOfTheSpecDecodeAsItSays : Prop :=
  (decodeWord .a32 0xEE110F11#32).toOption = some (.mrcScrA32 14#4 0#4)
    ∧ (decodeWord .a32 0xEE010F11#32).toOption = some (.mcrScrA32 14#4 0#4)
    ∧ (decodeWord .a32 0xEE112F11#32).toOption = some (.mrcScrA32 14#4 2#4)
    ∧ (decodeWord .a32 0xEE01EF11#32).toOption = some (.mcrScrA32 14#4 14#4)
    ∧ (decodeWord .a32 0x0E112F11#32).toOption = some (.mrcScrA32 0#4 2#4)
    ∧ (decodeWord .t32 0xEE113F11#32).toOption = some (.mrcScrT32 3#4)
    ∧ (decodeWord .t32 0xEE011F11#32).toOption = some (.mcrScrT32 1#4)
    ∧ decodeWord .a32 0xEE11FF11#32 = .error .rtIs15
    ∧ decodeWord .a32 0xFE110F11#32 = .error .notInTable
    ∧ decodeWord .a32 0xEE110F31#32 = .error .systemRegisterNotScr
    ∧ decodeWord .a32 0xEE110F12#32 = .error .systemRegisterNotScr
    ∧ decodeWord .a32 0xEE120F11#32 = .error .systemRegisterNotScr
    ∧ decodeWord .a32 0xEE310F11#32 = .error .systemRegisterNotScr
    ∧ decodeWord .a32 0xEE110E11#32 = .error .systemRegisterNotScr
    ∧ decodeWord .a32 0xEE110F01#32 = .error .notInTable
    ∧ decodeWord .t32 0xEE11FF11#32 = .error .rtIs15
    ∧ decodeWord .t32 0xEF110F11#32 = .error .notInTable

/-- Every well-formed instruction, in either byte order and with any bytes after it, is read back from its bytes. -/
def Obligations.DecodeInvertsEncode : Prop :=
  ∀ (bigEndian : Bool) (i : Instr) (rest : List Byte), i.wellFormed = true →
    decode i.isa bigEndian (encodeBytes bigEndian i ++ rest) = .ok (i, rest)

/-- Bytes that decode are the bytes of the instruction they decode to, which is well-formed and of the set they were read in. -/
def Obligations.DecodedBytesAreAnEncoding : Prop :=
  ∀ (isa : InstrSet) (bigEndian : Bool) (bs : List Byte) (i : Instr) (rest : List Byte),
    decode isa bigEndian bs = .ok (i, rest) →
      i.wellFormed = true ∧ i.isa = isa ∧ bs = encodeBytes bigEndian i ++ rest

/-- R86, R87: a word is an access to SCR exactly when it has its row's match under its row's mask, with a condition and a register
the spec admits; the operands are the row's free fields. That Rt 15 is refused is R135, the spec's decision D5 (log 23), that cond 15 is
no condition R86's (GK9, log 24), and the bit positions are general knowledge (GK3, GK4, log 7). -/
def Obligations.WordsOfTheRowsAreTheAccesses : Prop :=
  ∀ (w : Word) (cond rt : BitVec 4),
    (decodeWord .a32 w = .ok (.mrcScrA32 cond rt) ↔
      w &&& 0x0FFF0FFF#32 = 0x0E110F11#32 ∧ w.extractLsb' 28 4 = cond ∧ w.extractLsb' 12 4 = rt ∧ cond ≠ 15#4 ∧ rt ≠ 15#4)
    ∧ (decodeWord .a32 w = .ok (.mcrScrA32 cond rt) ↔
      w &&& 0x0FFF0FFF#32 = 0x0E010F11#32 ∧ w.extractLsb' 28 4 = cond ∧ w.extractLsb' 12 4 = rt ∧ cond ≠ 15#4 ∧ rt ≠ 15#4)
    ∧ (decodeWord .t32 w = .ok (.mrcScrT32 rt) ↔
      w &&& 0xFFFF0FFF#32 = 0xEE110F11#32 ∧ w.extractLsb' 12 4 = rt ∧ rt ≠ 15#4)
    ∧ (decodeWord .t32 w = .ok (.mcrScrT32 rt) ↔
      w &&& 0xFFFF0FFF#32 = 0xEE010F11#32 ∧ w.extractLsb' 12 4 = rt ∧ rt ≠ 15#4)

/-- R92, R82: an MRC or MCR word (its fixed bits as R86 or R87 has them) whose tuple differs from SCR's in any of the five fields is
refused by name, whatever its other fields are. That the decoder refuses is the spec's decision D1. -/
def Obligations.OtherSystemRegistersAreRefused : Prop :=
  ∀ w : Word, w.extractLsb' 4 1 = 1#1 →
    (w.extractLsb' 8 4 ≠ 15#4 ∨ w.extractLsb' 21 3 ≠ 0#3 ∨ w.extractLsb' 16 4 ≠ 1#4 ∨ w.extractLsb' 0 4 ≠ 1#4
      ∨ w.extractLsb' 5 3 ≠ 0#3) →
    (w.extractLsb' 24 4 = 14#4 → w.extractLsb' 28 4 ≠ 15#4 → decodeWord .a32 w = .error .systemRegisterNotScr)
    ∧ (w.extractLsb' 24 8 = 238#8 → decodeWord .t32 w = .error .systemRegisterNotScr)

/-! ## Steps -/

/-- The PE's turn, with nothing scheduled or the PE scheduled first, executes the instruction its bytes at `pc` decode to; the
step adds the counter of the draws and nothing else. -/
def Obligations.StepRunsTheDecodedInstruction : Prop :=
  ∀ (s u : State) (bs rest : List Byte) (i : Instr),
    (s.schedule = [] ∧ u = s ∨ ∃ later, s.schedule = .pe :: later ∧ u = { s with schedule := later }) →
    s.nsHold = false → secureFetchStopped u = false → pcAligned s.isa s.pc = true →
    memReadBytes s.mem s.pc 4 = .ok bs → decode s.isa s.params.instrBigEndian bs = .ok (i, rest) →
      (∀ t, exec i u = .next t → step s = .next { t with draws := t.draws + 1 })
      ∧ (∀ f, exec i u = .fault f → step s = .fault f)
      ∧ (∀ r, exec i u = .refused r → step s = .refused r)

/-- A table word that the decoder accepts, placed where the machine fetches, is what the very next step runs (log 5), in a state that
keeps the registers, SCR, the parameters and the environment but for the place the instruction comes from; the pc is rounded down to
the alignment of the instruction set the word is read in (log 6). -/
def Obligations.PlacedWordRunsNext : Prop :=
  ∀ (s : State) (w : Word) (i : Instr), decodeWord (tableIsa w) w = .ok i →
    ∃ u, step (s.withFetchWord 32 w.toNat) = afterStep (exec i u) ∧ u.regs = s.regs ∧ u.scr = s.scr
      ∧ u.effEarlier = s.effEarlier ∧ u.tlbSif = s.tlbSif ∧ u.params = s.params ∧ u.draws = s.draws
      ∧ u.env = { s.env with fetchFromNonsecure := false } ∧ u.pc = alignDown (tableIsa w) s.pc ∧ u.isa = tableIsa w

/-- R65 (GK13, D13, log 9): a turn of the PE, scheduled or not, that D24 does not hold (log 25) and whose fetch R62 does not stop (both
come first by the model's order, log 38), is refused where the pc is not word-aligned in A32, or not halfword-aligned in T32. -/
def Obligations.MisalignedPcIsRefused : Prop :=
  ∀ s : State, (takeTurn s).1 = .pe → s.nsHold = false → secureFetchStopped s = false →
    (s.isa = .a32 ∧ s.pc.toNat % 4 ≠ 0 ∨ s.isa = .t32 ∧ s.pc.toNat % 2 ≠ 0) → step s = .refused .misalignedPc

/-- R14, R93, R168: a scheduled attempt of an unencoded instruction that D24 does not hold and whose fetch R62 does not stop is the
operation `attempt`, and a scheduled turn that takes an asynchronous exception is the operation `takeAsync`, in the state with the
turn taken off the schedule; the step adds the counter of the draws. That these are turns of a schedule is the model's choice (log
15), and that an attempt is not checked for alignment too (log 27). -/
def Obligations.ScheduledTurnsRunTheirOperation : Prop :=
  (∀ (s : State) (i : UnencodedInsn) (len : Nat) (later : List Turn), s.schedule = .attempt i len :: later →
    s.nsHold = false → secureFetchStopped s = false →
      (∀ t, attempt i len { s with schedule := later } = .next t → step s = .next { t with draws := t.draws + 1 })
      ∧ (∀ f, attempt i len { s with schedule := later } = .fault f → step s = .fault f)
      ∧ (∀ r, attempt i len { s with schedule := later } = .refused r → step s = .refused r))
  ∧ ∀ (s : State) (k : AsyncKind) (later : List Turn), s.schedule = .takeAsync k :: later → s.nsHold = false →
      (∀ t, takeAsync k { s with schedule := later } = .next t → step s = .next { t with draws := t.draws + 1 })
      ∧ (∀ f, takeAsync k { s with schedule := later } = .fault f → step s = .fault f)
      ∧ (∀ r, takeAsync k { s with schedule := later } = .refused r → step s = .refused r)

/-- R53: a turn in which the environment changes makes the environment the new one, whatever it is, and changes nothing else but the
schedule (log 15) and the counter of the draws (log 14): not SCR, its history, the registers, the pc, the parameters or memory. -/
def Obligations.EnvChangeSetsTheEnvironment : Prop :=
  ∀ (s : State) (e : Env) (later : List Turn), s.schedule = .env (.envChange e) :: later →
    ∃ t, step s = .next t ∧ t.env = e ∧ t.scr = s.scr ∧ t.effEarlier = s.effEarlier ∧ t.tlbSif = s.tlbSif ∧ t.regs = s.regs
      ∧ t.pc = s.pc ∧ t.params = s.params ∧ t.isa = s.isa ∧ t.nsHold = s.nsHold ∧ t.schedule = later
      ∧ ∀ a, memRead t.mem a = memRead s.mem a

/-! ## The access instructions -/

/-- R130, R137: MRC of SCR, allowed and with its condition passed, in both instruction sets: `x[t]` takes all 32 bits of SCR, the pc
moves by 4, nothing else changes. -/
def Obligations.ReadOfScrCompletes : Prop :=
  ∀ (s : State) (cond rt : BitVec 4) (h : rt.toNat < 15), s.CanAccessScr →
    (cond ≠ 15#4 → (cond = 14#4 ∨ s.env.condPassed = true) →
      exec (.mrcScrA32 cond rt) s = .next { s with regs := s.regs.set rt.toNat s.scr, pc := s.pc + 4#32 })
    ∧ (s.env.condPassed = true →
      exec (.mrcScrT32 rt) s = .next { s with regs := s.regs.set rt.toNat s.scr, pc := s.pc + 4#32 })

/-- R131, R133, R134: MCR to SCR, allowed and with its condition passed, in both instruction sets: SCR takes `x[t]` through the NS
hold and the masks, the pc moves by 4, and the register it read is unchanged. Which mode the NS hold applies in is the spec's
decision D10 (log 21), what RES0 bits store its decision D3 (log 10). -/
def Obligations.WriteOfScrCompletes : Prop :=
  ∀ (s : State) (cond rt : BitVec 4) (h : rt.toNat < 15) (v : Word), s.CanAccessScr →
    v = (if s.env.hcrTge = true ∧ s.env.modeIsSecurePl1NotMonitor = true ∧ s.scr.getLsbD 0 = false
      then s.regs[rt.toNat] &&& 0xFFFFFFFE#32 else s.regs[rt.toNat]) →
    (cond ≠ 15#4 → (cond = 14#4 ∨ s.env.condPassed = true) → ∃ t, exec (.mcrScrA32 cond rt) s = .next t
      ∧ t.scr = (v &&& namedMask s.params) ||| (v &&& ~~~(namedMask s.params) &&& s.params.res0ReadbackMask)
      ∧ t.pc = s.pc + 4#32 ∧ t.regs = s.regs)
    ∧ (s.env.condPassed = true → ∃ t, exec (.mcrScrT32 rt) s = .next t
      ∧ t.scr = (v &&& namedMask s.params) ||| (v &&& ~~~(namedMask s.params) &&& s.params.res0ReadbackMask)
      ∧ t.pc = s.pc + 4#32 ∧ t.regs = s.regs)

/-- R133: an MCR in a Secure PL1 mode other than Monitor mode (the spec's reading D10, log 21), with HCR.TGE set and NS 0, completes
with NS still 0 and every other named bit as written; with HCR.TGE clear, or in Monitor mode, NS is as written. -/
def Obligations.NsIsHeldUnderTge : Prop :=
  ∀ (s : State) (i : Instr) (h : (instrRt i).toNat < 15), s.CanAccessScr → instrDir i = .write → i.wellFormed = true →
    passes i s = true → ∃ t, exec i s = .next t ∧ t.pc = s.pc + 4#32
      ∧ (s.env.hcrTge = true → s.env.modeIsSecurePl1NotMonitor = true → s.scr.getLsbD 0 = false → t.scr.getLsbD 0 = false)
      ∧ (s.env.hcrTge = false ∨ s.env.modeIsSecurePl1NotMonitor = false ∨ s.scr.getLsbD 0 = true →
          t.scr.getLsbD 0 = (s.regs[(instrRt i).toNat]).getLsbD 0)
      ∧ ∀ n, 0 < n → n < 32 → (namedMask s.params).getLsbD n = true →
          t.scr.getLsbD n = (s.regs[(instrRt i).toNat]).getLsbD n

/-- R138: the outcome of each of the four instructions, its condition passed and its operands admitted, in the priority order of the
source's listings. The access completes at EL3 and nowhere else. -/
def Obligations.AccessOutcomesFollowThePriorityOrder : Prop :=
  ∀ (s : State) (i : Instr), i.wellFormed = true → passes i s = true →
    (s.params.haveAA32EL3 = false → exec i s = .fault (.undefined .notSaid))
    ∧ (s.params.haveAA32EL3 = true →
      (s.env.el = .el0 → exec i s = .fault (.undefined .notSaid))
      ∧ (s.env.el = .el2 → exec i s = .fault (.undefined .notSaid))
      ∧ (s.env.el = .el3 → ∃ t, exec i s = .next t)
      ∧ (s.env.el = .el1 →
        exec i s = .fault (
          if s.env.el2Enabled = true ∧ s.params.haveAA64EL2 = true ∧ s.env.el2Aarch32 = false ∧ s.env.hstrEl2T1 = true then
            .trapAArch64 .el2 0x03
          else if s.env.el2Enabled = true ∧ s.params.haveAA32EL2 = true ∧ s.env.el2Aarch32 = true ∧ s.env.hstrT1 = true then
            .hypTrap 0x03
          else if s.env.el2Enabled = true ∧ s.params.haveAA64EL2 = true ∧ s.env.el2Aarch32 = false ∧ s.isSecure = true then
            .trapAArch64 .el2 0x03
          else if s.params.haveAA64EL3 = true ∧ s.env.el3Aarch32 = false ∧ s.isSecure = true then
            .trapAArch64 .el3 0x03
          else .undefined .notSaid)))

/-- R141: with SCR absent, every MRC and MCR of SCR whose condition passes is UNDEFINED, at every Exception level and in every
mode. -/
def Obligations.AbsentScrIsUndefined : Prop :=
  ∀ (s : State) (cond rt : BitVec 4), s.params.haveAA32EL3 = false → rt ≠ 15#4 →
    (cond ≠ 15#4 → (cond = 14#4 ∨ s.env.condPassed = true) →
      exec (.mrcScrA32 cond rt) s = .fault (.undefined .notSaid)
        ∧ exec (.mcrScrA32 cond rt) s = .fault (.undefined .notSaid))
    ∧ (s.env.condPassed = true →
      exec (.mrcScrT32 rt) s = .fault (.undefined .notSaid) ∧ exec (.mcrScrT32 rt) s = .fault (.undefined .notSaid))

/-- R139 (GK6): where EL3 and EL2 use AArch32, an access at EL1 that is stopped is a Hyp Trap or UNDEFINED. -/
def Obligations.AccessFromEl1UnderAArch32 : Prop :=
  ∀ (s : State) (i : Instr) (f : Fault), s.env.el = .el1 → s.env.el3Aarch32 = true → s.env.el2Aarch32 = true →
    exec i s = .fault f → f = .hypTrap 0x03 ∨ f = .undefined .notSaid

/-- R135 (the spec's decision D5): `t == 15` is refused for both instructions before any other check. -/
def Obligations.RtFifteenIsRefused : Prop :=
  ∀ (s : State) (cond : BitVec 4),
    exec (.mrcScrA32 cond 15#4) s = .refused .rtIs15 ∧ exec (.mcrScrA32 cond 15#4) s = .refused .rtIs15
      ∧ exec (.mrcScrT32 15#4) s = .refused .rtIs15 ∧ exec (.mcrScrT32 15#4) s = .refused .rtIs15

/-- R136 (the spec's decision D7, log 22): an instruction whose condition fails only advances the pc where the access would be
allowed; elsewhere it does that or raises the outcome the passed instruction raises. -/
def Obligations.FailedConditionDoesNothingOrStops : Prop :=
  ∀ (s : State) (i : Instr), i.wellFormed = true → passes i s = false →
    (s.CanAccessScr → exec i s = .next { s with pc := s.pc + 4#32 })
    ∧ (exec i s = .next { s with pc := s.pc + 4#32 }
      ∨ ∃ f, exec i s = .fault f ∧ exec i { s with env := { s.env with condPassed := true } } = .fault f)

/-- R134: writing back the value just read leaves SCR as it is, where SCR obeys the invariant of R40. -/
def Obligations.WritingBackWhatWasReadChangesNothing : Prop :=
  ∀ (s s1 s2 : State) (i j : Instr), storable s.params s.scr = true → s.CanAccessScr → instrDir i = .read →
    instrDir j = .write → instrRt i = instrRt j → passes i s = true → passes j s = true →
    exec i s = .next s1 → exec j s1 = .next s2 → s2.scr = s.scr

/-- R140, R69 (GK8): a direct read sees the last direct write. After an MCR, any run of turns without a reset and without another
instruction of the table leaves SCR as the MCR stored it, and an MRC then reads it, whatever SCR_WRITE_SYNC is. -/
def Obligations.ReadAfterWriteSeesTheWrite : Prop :=
  ∀ (s s1 s2 : State) (i j : Instr) (n : Nat) (h : (instrRt i).toNat < 15) (k : (instrRt j).toNat < 15),
    instrDir i = .write → instrDir j = .read → i.wellFormed = true → j.wellFormed = true → s.CanAccessScr →
    passes i s = true → exec i s = .next s1 →
    n ≤ s1.schedule.length → (∀ x ∈ s1.schedule.take n, Turn.quiet x = true) →
    Host.Core.run Sys2Proof.core n s1 = .next s2 → s2.CanAccessScr → passes j s2 = true →
    ∃ t, exec j s2 = .next t
      ∧ t.regs[(instrRt j).toNat] = storedValue s.params (heldNs s.env s.scr (s.regs[(instrRt i).toNat]))

/-! ## Frames -/

/-- What an MRC leaves unchanged, both instruction sets: everything but `x[t]` and the pc. -/
def Obligations.ReadOfScrFrame : Prop :=
  ∀ (s t : State) (i : Instr), instrDir i = .read → exec i s = .next t →
    (∀ r : Fin 15, r.val ≠ (instrRt i).toNat → t.reg r = s.reg r)
    ∧ t.scr = s.scr ∧ t.effEarlier = s.effEarlier ∧ t.tlbSif = s.tlbSif ∧ t.env = s.env ∧ t.params = s.params
    ∧ t.isa = s.isa ∧ t.nsHold = s.nsHold ∧ t.schedule = s.schedule ∧ ∀ a, memRead t.mem a = memRead s.mem a

/-- What an MCR leaves unchanged, both instruction sets: every register, the environment, memory, and in SCR every RES0 bit outside
RES0_READBACK_MASK is 0 or SCR is as it was. -/
def Obligations.WriteOfScrFrame : Prop :=
  ∀ (s t : State) (i : Instr), instrDir i = .write → exec i s = .next t →
    t.regs = s.regs ∧ t.env = s.env ∧ t.params = s.params ∧ t.isa = s.isa ∧ t.schedule = s.schedule
    ∧ (∀ a, memRead t.mem a = memRead s.mem a)
    ∧ (t.scr = s.scr ∨ ∀ n, n < 32 → (namedMask s.params).getLsbD n = false →
        s.params.res0ReadbackMask.getLsbD n = false → t.scr.getLsbD n = false)

/-- R22, R180: nothing changes SCR but a Warm reset and an MCR the PE executes at EL3 with SCR present. -/
def Obligations.OnlyMcrAndResetChangeScr : Prop :=
  ∀ s t : State, step s = .next t → t.scr ≠ s.scr →
    (takeTurn s).1.isReset = true
    ∨ ((takeTurn s).1 = .pe ∧ s.CanAccessScr ∧ ∃ bs rest i, memReadBytes s.mem s.pc 4 = .ok bs
        ∧ decode s.isa s.params.instrBigEndian bs = .ok (i, rest) ∧ instrDir i = .write)

/-- R22, R175: away from EL3, an instruction of the table stops or has changed nothing but the pc: no register and no SCR. -/
def Obligations.BelowEl3NothingIsReadOrWritten : Prop :=
  ∀ (s : State) (i : Instr), s.env.el ≠ .el3 →
    exec i s = .next { s with pc := s.pc + 4#32 } ∨ (∃ f, exec i s = .fault f) ∨ ∃ r, exec i s = .refused r

/-- R66, R69: no step writes memory. The spec says it of the accesses; the instruction memory itself is the model's choice (log 5), and
so is that a Warm reset keeps it (log 16). -/
def Obligations.NoStepWritesMemory : Prop :=
  ∀ s t : State, step s = .next t → ∀ a, memRead t.mem a = memRead s.mem a

/-- R6: the parameters are fixed for the life of a run. -/
def Obligations.ParametersNeverChange : Prop :=
  ∀ (n : Nat) (s t : State), Host.Core.run Sys2Proof.core n s = .next t → t.params = s.params

/-! ## The invariant -/

/-- Every step keeps the invariant: SCR and the values it held store nothing outside the bits that exist (R40), an absent SCR holds
nothing and no TLB a SIF of 1 (log 33), and instruction memory keeps its canonical form. -/
def Obligations.EveryStepKeepsTheInvariant : Prop :=
  ∀ s t : State, s.Inv → step s = .next t → t.Inv

/-- A machine just reset meets the invariant, whatever the parameters and the launch premises, and so does `State.reset`. -/
def Obligations.ResetMeetsTheInvariant : Prop :=
  (∀ (p : Params) (m : Memory) (sched : List Turn) (d : Nat) (l : Launch), Memory.wf m = true →
    (State.launch p m sched d l).Inv)
  ∧ State.reset.Inv

/-! ## Reset -/

/-- R200, R41: a Warm reset, from any state, clears SCR, leaves 0 the only value SCR_eff and a fetch can see of any field, and lets
the PE step again. RES0 bits reset to 0 by the spec's decision D4 (log 11); registers, pc and environment are launch premises
(R203, log 16). -/
def Obligations.WarmResetClearsScr : Prop :=
  ∀ (s : State) (l : Launch) (later : List Turn), s.schedule = .env (.warmReset l) :: later →
    ∃ t, step s = .next t ∧ t.scr = 0#32 ∧ (∀ f, (t.effSet f).mem true = false) ∧ (∀ r f, t.eff r f = false)
      ∧ t.sifSet.mem true = false ∧ t.sifFetch = false ∧ t.nsHold = false
      ∧ t.regs = l.regs ∧ t.pc = l.pc ∧ t.env = l.env ∧ t.params = s.params ∧ t.schedule = later

/-- R202: what the reset value means. After a Warm reset, where this SCR is the control: the PE is Secure (in Monitor mode by the
spec's decision D11, log 17), SIF stops no fetch, nothing is trapped to Monitor mode by TWE, TWI or TERR, SMC is enabled above EL0 (the
model refuses it there, D17, log 26), HVC is UNDEFINED, and an IRQ that is taken goes to IRQ mode, an FIQ to FIQ mode and an
External abort to Abort mode. -/
def Obligations.AfterResetNothingIsControlled : Prop :=
  ∀ (s t : State) (l : Launch), t = s.warmReset l → live s.params l.env = true →
    t.isSecure = true
    ∧ secureFetchStopped t = false
    ∧ (∀ i len c, attempt i len t ≠ .fault (.monitorTrap c))
    ∧ (∀ len, l.env.el ≠ .el0 → attempt .smc len t = .refused (.proceeds .smc))
    ∧ (∀ len, attempt .hvc len t = .fault (.undefined .notSaid))
    ∧ (∀ f, takeAsync .irq t = .fault f → f = .taken .irq .irqMode)
    ∧ (∀ f, takeAsync .fiq t = .fault f → f = .taken .fiq .fiqMode)
    ∧ (∀ f, takeAsync .externalAbort t = .fault f → f = .taken .externalAbort .abortMode)

/-! ## Indirect reads -/

/-- R21, R51: once SCR_eff is SCR, each field the indirect read of any rule sees is its own bit of SCR, and 0 where its feature is absent
(R24, R30, R32); so two rules see the same. -/
def Obligations.SyncedReadsSeeTheirBitOfScr : Prop :=
  ∀ (s : State) (r : Reader), s.Synced →
    s.eff r .terr = (s.params.haveRas && s.scr.getLsbD 15) ∧ s.eff r .twe = s.scr.getLsbD 13
    ∧ s.eff r .twi = s.scr.getLsbD 12 ∧ s.eff r .sif = s.scr.getLsbD 9
    ∧ s.eff r .hce = ((s.params.haveAA32EL2 || s.params.haveAA64EL2) && s.scr.getLsbD 8) ∧ s.eff r .scd = s.scr.getLsbD 7
    ∧ s.eff r .net = (s.params.haveNet && s.scr.getLsbD 6) ∧ s.eff r .aw = s.scr.getLsbD 5 ∧ s.eff r .fw = s.scr.getLsbD 4
    ∧ s.eff r .ea = s.scr.getLsbD 3 ∧ s.eff r .fiq = s.scr.getLsbD 2 ∧ s.eff r .irq = s.scr.getLsbD 1
    ∧ s.eff r .ns = s.scr.getLsbD 0

/-- R70, R51: a ContextSync, in any state, makes SCR_eff SCR and changes SCR in no bit. -/
def Obligations.ContextSyncSettlesScr : Prop :=
  ∀ (s : State) (later : List Turn), s.schedule = .env .contextSync :: later →
    ∃ t, step s = .next t ∧ t.scr = s.scr ∧ t.Synced ∧ (∀ r f, t.eff r f = (fieldPresent s.params f && fieldBit f s.scr))
      ∧ t.regs = s.regs ∧ t.pc = s.pc ∧ t.env = s.env

/-- R205 (the spec's mechanism, D9, log 12): an MCR that completes adds the value it stored to what SCR_eff may be in each field,
and removes nothing, when writes lag; when they are immediate SCR_eff is SCR after it as before. In every state an indirect read of a
field that is present sees a value of its set. -/
def Obligations.WritesReachIndirectReadsByTheirSet : Prop :=
  (∀ (s t : State) (i : Instr), instrDir i = .write → exec i s = .next t → s.params.scrWriteSync = .lagging →
    ∀ f b, (t.effSet f).mem b = true ↔ ((s.effSet f).mem b = true ∨ fieldBit f t.scr = b))
  ∧ (∀ s : State, s.params.scrWriteSync = .immediate → ∀ f b, (s.effSet f).mem b = true ↔ fieldBit f s.scr = b)
  ∧ ∀ (s : State) (r : Reader) (f : Field), fieldPresent s.params f = true → (s.effSet f).mem (s.eff r f) = true

/-- R63, R206: a SIF value a fetch may see stays one it may see, through every step but a TlbInvalidate and a Warm reset; a
ContextSync does not end it. Where SCR_eff.SIF lags, each of its candidates counts as a value it has held: that is deduced, not said
(log 13, over the spec's decision D12). -/
def Obligations.TlbKeepsSifValues : Prop :=
  ∀ s t : State, step s = .next t → (takeTurn s).1.clearsTlb = false →
    ∀ b, s.sifSet.mem b = true → t.sifSet.mem b = true

/-- R63: after a TlbInvalidate a fetch sees no SIF value but those SCR_eff may have. R63 speaks of the values SCR_eff.SIF has held since
then; that these are the candidates of that moment is deduced, not said (log 13, over the spec's decision D12). -/
def Obligations.TlbInvalidateLeavesTheEffectiveSif : Prop :=
  ∀ (s : State) (later : List Turn), s.schedule = .env .tlbInvalidate :: later →
    ∃ t, step s = .next t ∧ (∀ b, t.sifSet.mem b = true ↔ (s.effSet .sif).mem b = true) ∧ t.scr = s.scr
      ∧ t.effEarlier = s.effEarlier ∧ t.regs = s.regs ∧ t.pc = s.pc

/-- R50 (Monitor mode is Secure by the spec's decision D11, log 17): where this SCR is the control, the PE is Secure in Monitor mode
whatever NS holds, and outside it exactly when SCR_eff.NS is 0, that is when SCR.NS is 0 once it is synced. -/
def Obligations.NsDecidesTheSecurityState : Prop :=
  ∀ s : State, s.params.haveAA32EL3 = true → s.env.el3Aarch32 = true →
    (s.env.modeIsMonitor = true → s.isSecure = true)
    ∧ (s.env.modeIsMonitor = false → s.Synced → (s.isSecure = true ↔ s.scr.getLsbD 0 = false))
    ∧ (s.env.modeIsMonitor = false → (s.isSecure = true ↔ s.eff .securityState .ns = false))

/-- R62: a turn that fetches, of the PE or an attempt, scheduled or not, and that D24 does not hold, in Secure state, from Non-secure
memory, with 1 the only SIF value it may see, is denied where this SCR is the control, and refused where it is not (R109, the spec's
decision D2, log 32). No turn is stopped so in Non-secure state, from Secure memory, or when no SIF value it may see is 1; none is
denied where this SCR is not the control. That it holds of a misaligned pc too is the model's order (log 38). -/
def Obligations.SecureFetchIsDeniedBySif : Prop :=
  (∀ s : State, ((takeTurn s).1 = .pe ∨ ∃ i len, (takeTurn s).1 = .attempt i len) → s.nsHold = false → s.isSecure = true →
    s.env.fetchFromNonsecure = true → s.sifSet.mem false = false →
      (s.params.haveAA32EL3 = true ∧ s.env.el3Aarch32 = true → step s = .fault .secureFetchDenied)
      ∧ (s.params.haveAA32EL3 = false ∨ s.env.el3Aarch32 = false → step s = .refused .fetchNotDecidedByScr))
  ∧ ∀ s : State,
    (s.isSecure = false ∨ s.env.fetchFromNonsecure = false ∨ s.sifSet.mem true = false →
      step s ≠ .fault .secureFetchDenied ∧ step s ≠ .refused .fetchNotDecidedByScr)
    ∧ (s.params.haveAA32EL3 = false ∨ s.env.el3Aarch32 = false → step s ≠ .fault .secureFetchDenied)

/-- R39(a), R108, R209 (R39 is the spec's decision D3): two machines that differ only in the RES0 bits and nET of SCR and of the
values it held answer alike: every attempt, every asynchronous exception, every fetch and every access stops or goes on in both. -/
def Obligations.Res0BitsAndNetNeverAct : Prop :=
  ∀ (s t : State) (v : Word) (vs : List Word), t = { s with scr := v, effEarlier := vs } →
    v &&& (namedMask s.params &&& 0xFFFFFFBF#32) = s.scr &&& (namedMask s.params &&& 0xFFFFFFBF#32) →
    List.Forall₂ (fun a b => a &&& (namedMask s.params &&& 0xFFFFFFBF#32) = b &&& (namedMask s.params &&& 0xFFFFFFBF#32))
      vs s.effEarlier →
    (∀ i len f, attempt i len t = .fault f ↔ attempt i len s = .fault f)
    ∧ (∀ i len, attempt i len t = .next (t.advancePc len) ↔ attempt i len s = .next (s.advancePc len))
    ∧ (∀ k f, takeAsync k t = .fault f ↔ takeAsync k s = .fault f)
    ∧ (∀ i f, exec i t = .fault f ↔ exec i s = .fault f)
    ∧ secureFetchStopped t = secureFetchStopped s

/-! ## The instructions SCR controls -/

/-- R100, R101: a WFE is trapped to Monitor mode exactly under TWE's conditions, a WFI under TWI's; an exception taken to EL1 or EL2 has
priority; no other fault is raised by either. -/
def Obligations.WaitsAreTrappedByTweAndTwi : Prop :=
  ∀ (s : State) (cond : Option (BitVec 4)) (len : Nat),
    (attempt (.wfe cond) len s = .fault (.monitorTrap .wfe) ↔
      s.params.haveAA32EL3 = true ∧ s.env.el3Aarch32 = true ∧ conditionPassed s.env cond = true
        ∧ s.env.wfeTrappedLower = false ∧ s.eff .verdict .twe = true ∧ s.env.modeIsMonitor = false ∧ s.wouldSleep = true)
    ∧ (attempt (.wfe cond) len s = .fault .lowerException ↔
      s.params.haveAA32EL3 = true ∧ s.env.el3Aarch32 = true ∧ conditionPassed s.env cond = true
        ∧ s.env.wfeTrappedLower = true)
    ∧ (∀ f, attempt (.wfe cond) len s = .fault f → f = .monitorTrap .wfe ∨ f = .lowerException)
    ∧ (attempt (.wfi cond) len s = .fault (.monitorTrap .wfi) ↔
      s.params.haveAA32EL3 = true ∧ s.env.el3Aarch32 = true ∧ conditionPassed s.env cond = true
        ∧ s.env.wfiTrappedLower = false ∧ s.eff .verdict .twi = true ∧ s.env.modeIsMonitor = false ∧ s.wouldSleep = true)
    ∧ (attempt (.wfi cond) len s = .fault .lowerException ↔
      s.params.haveAA32EL3 = true ∧ s.env.el3Aarch32 = true ∧ conditionPassed s.env cond = true
        ∧ s.env.wfiTrappedLower = true)
    ∧ ∀ f, attempt (.wfi cond) len s = .fault f → f = .monitorTrap .wfi ∨ f = .lowerException

/-- R102, R103, R207: under TWE or TWI, with the trap's other conditions met, a WFE or WFI traps or completes and never sleeps; it
completes when a Wakeup event is pending; and one whose condition fails does nothing but advance the pc (GK9, log 26). -/
def Obligations.TrappedWaitsNeverSleep : Prop :=
  ∀ (s : State) (cond : Option (BitVec 4)) (len : Nat), s.params.haveAA32EL3 = true → s.env.el3Aarch32 = true →
    (conditionPassed s.env cond = true → s.env.wfeTrappedLower = false → s.eff .verdict .twe = true → s.env.modeIsMonitor = false →
      (attempt (.wfe cond) len s = .fault (.monitorTrap .wfe) ∨ attempt (.wfe cond) len s = .next (s.advancePc len))
      ∧ (s.env.wakeupPending = true → attempt (.wfe cond) len s = .next (s.advancePc len)))
    ∧ (conditionPassed s.env cond = true → s.env.wfiTrappedLower = false → s.eff .verdict .twi = true → s.env.modeIsMonitor = false →
      (attempt (.wfi cond) len s = .fault (.monitorTrap .wfi) ∨ attempt (.wfi cond) len s = .next (s.advancePc len))
      ∧ (s.env.wakeupPending = true → attempt (.wfi cond) len s = .next (s.advancePc len)))
    ∧ (conditionPassed s.env cond = false →
      attempt (.wfe cond) len s = .next (s.advancePc len) ∧ attempt (.wfi cond) len s = .next (s.advancePc len))

/-- R104: HVC, case by case. Where SCR lets it proceed the model refuses (D17, log 26). -/
def Obligations.HvcIsEnabledByHce : Prop :=
  ∀ (s : State) (len : Nat),
    (haveEL2 s.params = false → attempt .hvc len s = .fault (.undefined .notSaid))
    ∧ (s.env.el = .el0 ∨ s.isSecure = true → attempt .hvc len s = .fault (.undefined .notSaid))
    ∧ (haveEL2 s.params = true → s.env.el ≠ .el0 → s.isSecure = false →
      (live s.params s.env = false ∨ s.eff .verdict .hce = true → attempt .hvc len s = .refused (.proceeds .hvc))
      ∧ (live s.params s.env = true → s.eff .verdict .hce = false →
        (s.env.el = .el1 → attempt .hvc len s = .fault (.undefined .fromPl1ToPl1))
        ∧ (s.env.el = .el2 → s.params.hvcEl2Disabled = .undefined → attempt .hvc len s = .fault (.undefined .notSaid))
        ∧ (s.env.el = .el2 → s.params.hvcEl2Disabled = .nop → attempt .hvc len s = .next (s.advancePc len))
        ∧ (s.env.el = .el3 → attempt .hvc len s = .refused .noSuchState)))

/-- R105 (PL0 is EL0 by GK6): SMC, case by case. Where SCR lets it proceed the model refuses (D17, log 26). -/
def Obligations.SmcIsDisabledByScd : Prop :=
  ∀ (s : State) (len : Nat),
    (s.env.el = .el0 → attempt .smc len s = .fault (.undefined .notSaid))
    ∧ (s.env.el ≠ .el0 →
      (live s.params s.env = false ∨ s.eff .verdict .scd = false → attempt .smc len s = .refused (.proceeds .smc))
      ∧ (live s.params s.env = true → s.eff .verdict .scd = true →
        (s.isSecure = false → attempt .smc len s = .fault (.undefined (.atCurrentEl s.env.el)))
        ∧ (s.isSecure = true → s.params.smcSecureDisabled = .undefined →
            attempt .smc len s = .fault (.undefined .notSaid))
        ∧ (s.isSecure = true → s.params.smcSecureDisabled = .nop → attempt .smc len s = .next (s.advancePc len))))

/-- R106, R162 (which EC value goes with which access is the spec's decision D18, log 29): where this SCR is the control, under TERR an
access outside Monitor mode to a register of the trapped set is a Monitor trap with 0x03 for MRC and MCR and 0x04 for MRRC and MCRR; with
another exception due it is that one or this trap, a draw (log 30); in Monitor mode, with TERR 0, without FEAT_RAS, or where this SCR
is not the control (R109, D2) it is never trapped, and the model refuses what proceeds (D17, log 26); and ERXMISC4 to ERXMISC7 are in
the set exactly with FEAT_RASv1p1. -/
def Obligations.ErrorRecordsAreTrappedByTerr : Prop :=
  ∀ (s : State) (kind : ErrKind) (reg : ErrReg) (len : Nat),
    (live s.params s.env = true → s.params.haveRas = true → s.eff .verdict .terr = true → s.env.modeIsMonitor = false →
      reg ≠ .other →
      (reg = .erxmisc4 ∨ reg = .erxmisc5 ∨ reg = .erxmisc6 ∨ reg = .erxmisc7 → s.params.haveRasV1p1 = true) →
      (kind = .mrc ∨ kind = .mcr →
        (s.env.errOtherException = false → attempt (.errAccess kind reg) len s = .fault (.monitorTrap .ec03))
        ∧ (attempt (.errAccess kind reg) len s = .fault .lowerException
          ∨ attempt (.errAccess kind reg) len s = .fault (.monitorTrap .ec03)))
      ∧ (kind = .mrrc ∨ kind = .mcrr →
        (s.env.errOtherException = false → attempt (.errAccess kind reg) len s = .fault (.monitorTrap .ec04))
        ∧ (attempt (.errAccess kind reg) len s = .fault .lowerException
          ∨ attempt (.errAccess kind reg) len s = .fault (.monitorTrap .ec04))))
    ∧ (live s.params s.env = false ∨ s.env.modeIsMonitor = true ∨ s.eff .verdict .terr = false ∨ s.params.haveRas = false
        ∨ reg = .other
        ∨ (s.params.haveRasV1p1 = false ∧ (reg = .erxmisc4 ∨ reg = .erxmisc5 ∨ reg = .erxmisc6 ∨ reg = .erxmisc7)) →
      attempt (.errAccess kind reg) len s = .refused (.proceeds (.errAccess kind reg)))

/-- R107: an attempt that goes on has moved the pc by the instruction's length (which the turn carries, log 27) and changed nothing
else; a turn that takes no asynchronous exception, because none is pending or it is masked, has changed nothing (log 31). -/
def Obligations.AttemptFrame : Prop :=
  (∀ (s t : State) (i : UnencodedInsn) (len : Nat), attempt i len s = .next t →
    t = { s with pc := s.pc + BitVec.ofNat 32 len })
  ∧ ∀ (s t : State) (k : AsyncKind), takeAsync k s = .next t →
    t = s ∧ (asyncPending s.env k = false ∨ s.asyncMasked k = true)

/-! ## Routing and masking -/

/-- R163: where this SCR is the control (D2), a pending IRQ that the input `irq_masked` does not mask (the spec's decision D20, log 31) is taken to IRQ mode when SCR_eff.IRQ is 0 and
to Monitor mode when it is 1, whatever the Security state; one that is masked is not taken. -/
def Obligations.IrqIsRoutedByIrq : Prop :=
  ∀ s : State, live s.params s.env = true → s.env.irqPending = true →
    (s.env.irqMasked = false → s.eff .routing .irq = false → takeAsync .irq s = .fault (.taken .irq .irqMode))
    ∧ (s.env.irqMasked = false → s.eff .routing .irq = true → takeAsync .irq s = .fault (.taken .irq .monitorMode))
    ∧ (s.env.irqMasked = true → ∀ f, takeAsync .irq s ≠ .fault f)

/-- R164, R167 (Monitor mode is the EL3 of FW by C3 and D19, and `fiq_masked_other` the spec's decision D20, log 31): where this SCR is
the control (D2), a pending FIQ that is taken goes to FIQ mode when the routing rule sees SCR_eff.FIQ 0 and to Monitor mode when it sees
1. When the masking rule sees FIQ 1 and HCR.FMO is 0: with FW 0 from Non-secure state it is taken whatever PSTATE.F holds, and otherwise
exactly when PSTATE.F is 0. When it sees FIQ 0 or HCR.FMO is 1, FW has no effect and another control, an input, masks it. The two rules
may see different values only while a write of SCR lags (R205, log 12). -/
def Obligations.FiqIsRoutedByFiqAndMaskedByFw : Prop :=
  ∀ s : State, live s.params s.env = true → s.env.fiqPending = true →
    (∀ f, takeAsync .fiq s = .fault f →
      f = .taken .fiq (if s.eff .routing .fiq = true then .monitorMode else .fiqMode))
    ∧ (s.eff .masking .fiq = true → s.env.hcrFmo = false → s.eff .masking .fw = false → s.isSecure = false →
      ∃ f, takeAsync .fiq s = .fault f)
    ∧ (s.eff .masking .fiq = true → s.env.hcrFmo = false → s.eff .masking .fw = true ∨ s.isSecure = true →
      ((∃ f, takeAsync .fiq s = .fault f) ↔ s.env.pstateF = false))
    ∧ (s.eff .masking .fiq = false ∨ s.env.hcrFmo = true →
      ((∃ f, takeAsync .fiq s = .fault f) ↔ s.env.fiqMaskedOther = false))

/-- R165, R166 (SError is routed with External aborts by C2, Monitor mode is the EL3 of AW by C3 and D19, and `abort_masked_other` is the
spec's decision D20, log 31; that every External abort can be masked is the model's choice, log 31): where this SCR is the control (D2),
a pending External abort that is taken goes to Abort mode when the routing rule sees SCR_eff.EA 0 and to Monitor mode when it sees 1.
When the masking rule sees EA 1 and HCR.AMO is 0: with AW 0 from Non-secure state it is taken whatever PSTATE.A holds, and otherwise
exactly when PSTATE.A is 0. When it sees EA 0 or HCR.AMO is 1, AW has no effect and another control, an input, masks it. The two rules
may see different values only while a write of SCR lags (R205, log 12). -/
def Obligations.AbortIsRoutedByEaAndMaskedByAw : Prop :=
  ∀ s : State, live s.params s.env = true → s.env.abortPending = true →
    (∀ f, takeAsync .externalAbort s = .fault f →
      f = .taken .externalAbort (if s.eff .routing .ea = true then .monitorMode else .abortMode))
    ∧ (s.eff .masking .ea = true → s.env.hcrAmo = false → s.eff .masking .aw = false → s.isSecure = false →
      ∃ f, takeAsync .externalAbort s = .fault f)
    ∧ (s.eff .masking .ea = true → s.env.hcrAmo = false → s.eff .masking .aw = true ∨ s.isSecure = true →
      ((∃ f, takeAsync .externalAbort s = .fault f) ↔ s.env.pstateA = false))
    ∧ (s.eff .masking .ea = false ∨ s.env.hcrAmo = true →
      ((∃ f, takeAsync .externalAbort s = .fault f) ↔ s.env.abortMaskedOther = false))

/-! ## NS changed outside Monitor mode -/

/-- R176, R208 (the spec's decision D24, log 25): an MCR outside Monitor mode that changes NS completes, and from then on every turn of
the PE, an attempt and a taken exception among them, is refused, until a Warm reset, through any turns of the environment. Nothing
else holds the PE so: not an MCR in Monitor mode, nor one that leaves NS as it was, nor any other step. -/
def Obligations.NsChangedOutsideMonitorStopsThePe : Prop :=
  (∀ (s t : State) (i : Instr), instrDir i = .write → exec i s = .next t →
    (s.env.modeIsMonitor = false → t.scr.getLsbD 0 ≠ s.scr.getLsbD 0 → t.nsHold = true)
    ∧ (s.env.modeIsMonitor = true ∨ t.scr.getLsbD 0 = s.scr.getLsbD 0 → t.nsHold = s.nsHold))
  ∧ (∀ s : State, s.nsHold = true → (∀ e, (takeTurn s).1 ≠ .env e) → step s = .refused .nsChangedOutsideMonitor)
  ∧ (∀ s t : State, s.nsHold = true → step s = .next t → (takeTurn s).1.isReset = false → t.nsHold = true)
  ∧ ∀ s t : State, s.nsHold = false → step s = .next t → t.nsHold = true →
      (takeTurn s).1 = .pe ∧ s.env.modeIsMonitor = false ∧ t.scr.getLsbD 0 ≠ s.scr.getLsbD 0
end

