-- ==== Sys2Proof/Laws/State.lean ====
section
/-! SUPPORT. What each update of the state leaves in each field, so that no proof unfolds a record update. -/

namespace Sys2Proof.Machine

variable (s : State)

/-! ## advancePc -/

@[simp] theorem State.advancePc_params (n : Nat) : (s.advancePc n).params = s.params := rfl
@[simp] theorem State.advancePc_regs (n : Nat) : (s.advancePc n).regs = s.regs := rfl
@[simp] theorem State.advancePc_pc (n : Nat) : (s.advancePc n).pc = s.pc + BitVec.ofNat 32 n := rfl
@[simp] theorem State.advancePc_scr (n : Nat) : (s.advancePc n).scr = s.scr := rfl
@[simp] theorem State.advancePc_effEarlier (n : Nat) : (s.advancePc n).effEarlier = s.effEarlier := rfl
@[simp] theorem State.advancePc_tlbSif (n : Nat) : (s.advancePc n).tlbSif = s.tlbSif := rfl
@[simp] theorem State.advancePc_env (n : Nat) : (s.advancePc n).env = s.env := rfl
@[simp] theorem State.advancePc_isa (n : Nat) : (s.advancePc n).isa = s.isa := rfl
@[simp] theorem State.advancePc_mem (n : Nat) : (s.advancePc n).mem = s.mem := rfl
@[simp] theorem State.advancePc_nsHold (n : Nat) : (s.advancePc n).nsHold = s.nsHold := rfl
@[simp] theorem State.advancePc_schedule (n : Nat) : (s.advancePc n).schedule = s.schedule := rfl
@[simp] theorem State.advancePc_draws (n : Nat) : (s.advancePc n).draws = s.draws := rfl

/-! ## setReg -/

@[simp] theorem State.setReg_params (r : Fin 15) (v : Word) : (s.setReg r v).params = s.params := rfl
@[simp] theorem State.setReg_regs (r : Fin 15) (v : Word) : (s.setReg r v).regs = s.regs.set r.val v := rfl
@[simp] theorem State.setReg_pc (r : Fin 15) (v : Word) : (s.setReg r v).pc = s.pc := rfl
@[simp] theorem State.setReg_scr (r : Fin 15) (v : Word) : (s.setReg r v).scr = s.scr := rfl
@[simp] theorem State.setReg_effEarlier (r : Fin 15) (v : Word) : (s.setReg r v).effEarlier = s.effEarlier := rfl
@[simp] theorem State.setReg_tlbSif (r : Fin 15) (v : Word) : (s.setReg r v).tlbSif = s.tlbSif := rfl
@[simp] theorem State.setReg_env (r : Fin 15) (v : Word) : (s.setReg r v).env = s.env := rfl
@[simp] theorem State.setReg_isa (r : Fin 15) (v : Word) : (s.setReg r v).isa = s.isa := rfl
@[simp] theorem State.setReg_mem (r : Fin 15) (v : Word) : (s.setReg r v).mem = s.mem := rfl
@[simp] theorem State.setReg_nsHold (r : Fin 15) (v : Word) : (s.setReg r v).nsHold = s.nsHold := rfl
@[simp] theorem State.setReg_schedule (r : Fin 15) (v : Word) : (s.setReg r v).schedule = s.schedule := rfl
@[simp] theorem State.setReg_draws (r : Fin 15) (v : Word) : (s.setReg r v).draws = s.draws := rfl

/-! ## writeScr -/

@[simp] theorem State.writeScr_params (v : Word) : (s.writeScr v).params = s.params := rfl
@[simp] theorem State.writeScr_regs (v : Word) : (s.writeScr v).regs = s.regs := rfl
@[simp] theorem State.writeScr_pc (v : Word) : (s.writeScr v).pc = s.pc := rfl
@[simp] theorem State.writeScr_scr (v : Word) : (s.writeScr v).scr = v := rfl
@[simp] theorem State.writeScr_effEarlier (v : Word) : (s.writeScr v).effEarlier = s.scr :: s.effEarlier := rfl
@[simp] theorem State.writeScr_tlbSif (v : Word) : (s.writeScr v).tlbSif = s.sifSet := rfl
@[simp] theorem State.writeScr_env (v : Word) : (s.writeScr v).env = s.env := rfl
@[simp] theorem State.writeScr_isa (v : Word) : (s.writeScr v).isa = s.isa := rfl
@[simp] theorem State.writeScr_mem (v : Word) : (s.writeScr v).mem = s.mem := rfl
@[simp] theorem State.writeScr_nsHold (v : Word) : (s.writeScr v).nsHold = s.nsHold := rfl
@[simp] theorem State.writeScr_schedule (v : Word) : (s.writeScr v).schedule = s.schedule := rfl
@[simp] theorem State.writeScr_draws (v : Word) : (s.writeScr v).draws = s.draws := rfl

/-! ## contextSync -/

@[simp] theorem State.contextSync_params : (s.contextSync).params = s.params := rfl
@[simp] theorem State.contextSync_regs : (s.contextSync).regs = s.regs := rfl
@[simp] theorem State.contextSync_pc : (s.contextSync).pc = s.pc := rfl
@[simp] theorem State.contextSync_scr : (s.contextSync).scr = s.scr := rfl
@[simp] theorem State.contextSync_effEarlier : (s.contextSync).effEarlier = [] := rfl
@[simp] theorem State.contextSync_tlbSif : (s.contextSync).tlbSif = s.sifSet := rfl
@[simp] theorem State.contextSync_env : (s.contextSync).env = s.env := rfl
@[simp] theorem State.contextSync_isa : (s.contextSync).isa = s.isa := rfl
@[simp] theorem State.contextSync_mem : (s.contextSync).mem = s.mem := rfl
@[simp] theorem State.contextSync_nsHold : (s.contextSync).nsHold = s.nsHold := rfl
@[simp] theorem State.contextSync_schedule : (s.contextSync).schedule = s.schedule := rfl
@[simp] theorem State.contextSync_draws : (s.contextSync).draws = s.draws := rfl

/-! ## tlbInvalidate -/

@[simp] theorem State.tlbInvalidate_params : (s.tlbInvalidate).params = s.params := rfl
@[simp] theorem State.tlbInvalidate_regs : (s.tlbInvalidate).regs = s.regs := rfl
@[simp] theorem State.tlbInvalidate_pc : (s.tlbInvalidate).pc = s.pc := rfl
@[simp] theorem State.tlbInvalidate_scr : (s.tlbInvalidate).scr = s.scr := rfl
@[simp] theorem State.tlbInvalidate_effEarlier : (s.tlbInvalidate).effEarlier = s.effEarlier := rfl
@[simp] theorem State.tlbInvalidate_tlbSif : (s.tlbInvalidate).tlbSif = s.effSet .sif := rfl
@[simp] theorem State.tlbInvalidate_env : (s.tlbInvalidate).env = s.env := rfl
@[simp] theorem State.tlbInvalidate_isa : (s.tlbInvalidate).isa = s.isa := rfl
@[simp] theorem State.tlbInvalidate_mem : (s.tlbInvalidate).mem = s.mem := rfl
@[simp] theorem State.tlbInvalidate_nsHold : (s.tlbInvalidate).nsHold = s.nsHold := rfl
@[simp] theorem State.tlbInvalidate_schedule : (s.tlbInvalidate).schedule = s.schedule := rfl
@[simp] theorem State.tlbInvalidate_draws : (s.tlbInvalidate).draws = s.draws := rfl

/-! ## warmReset -/

@[simp] theorem State.warmReset_params (l : Launch) : (s.warmReset l).params = s.params := rfl
@[simp] theorem State.warmReset_regs (l : Launch) : (s.warmReset l).regs = l.regs := rfl
@[simp] theorem State.warmReset_pc (l : Launch) : (s.warmReset l).pc = l.pc := rfl
@[simp] theorem State.warmReset_scr (l : Launch) : (s.warmReset l).scr = 0#32 := rfl
@[simp] theorem State.warmReset_effEarlier (l : Launch) : (s.warmReset l).effEarlier = [] := rfl
@[simp] theorem State.warmReset_tlbSif (l : Launch) : (s.warmReset l).tlbSif = BitSet.mk true false := rfl
@[simp] theorem State.warmReset_env (l : Launch) : (s.warmReset l).env = l.env := rfl
@[simp] theorem State.warmReset_isa (l : Launch) : (s.warmReset l).isa = l.isa := rfl
@[simp] theorem State.warmReset_mem (l : Launch) : (s.warmReset l).mem = s.mem := rfl
@[simp] theorem State.warmReset_nsHold (l : Launch) : (s.warmReset l).nsHold = false := rfl
@[simp] theorem State.warmReset_schedule (l : Launch) : (s.warmReset l).schedule = s.schedule := rfl
@[simp] theorem State.warmReset_draws (l : Launch) : (s.warmReset l).draws = s.draws := rfl

/-! ## readScr and writeScrFrom -/

@[simp] theorem readScr_params (r : Fin 15) : (readScr r s).params = s.params := rfl
@[simp] theorem readScr_regs (r : Fin 15) : (readScr r s).regs = s.regs.set r.val s.scr := rfl
@[simp] theorem readScr_pc (r : Fin 15) : (readScr r s).pc = s.pc := rfl
@[simp] theorem readScr_scr (r : Fin 15) : (readScr r s).scr = s.scr := rfl
@[simp] theorem readScr_effEarlier (r : Fin 15) : (readScr r s).effEarlier = s.effEarlier := rfl
@[simp] theorem readScr_tlbSif (r : Fin 15) : (readScr r s).tlbSif = s.tlbSif := rfl
@[simp] theorem readScr_env (r : Fin 15) : (readScr r s).env = s.env := rfl
@[simp] theorem readScr_isa (r : Fin 15) : (readScr r s).isa = s.isa := rfl
@[simp] theorem readScr_mem (r : Fin 15) : (readScr r s).mem = s.mem := rfl
@[simp] theorem readScr_nsHold (r : Fin 15) : (readScr r s).nsHold = s.nsHold := rfl
@[simp] theorem readScr_schedule (r : Fin 15) : (readScr r s).schedule = s.schedule := rfl
@[simp] theorem readScr_draws (r : Fin 15) : (readScr r s).draws = s.draws := rfl

@[simp] theorem writeScrFrom_params (r : Fin 15) : (writeScrFrom r s).params = s.params := rfl
@[simp] theorem writeScrFrom_regs (r : Fin 15) : (writeScrFrom r s).regs = s.regs := rfl
@[simp] theorem writeScrFrom_pc (r : Fin 15) : (writeScrFrom r s).pc = s.pc := rfl
@[simp] theorem writeScrFrom_scr (r : Fin 15) : (writeScrFrom r s).scr = s.scrAfterWrite (s.reg r) := rfl
@[simp] theorem writeScrFrom_effEarlier (r : Fin 15) : (writeScrFrom r s).effEarlier = s.scr :: s.effEarlier := rfl
@[simp] theorem writeScrFrom_tlbSif (r : Fin 15) : (writeScrFrom r s).tlbSif = s.sifSet := rfl
@[simp] theorem writeScrFrom_env (r : Fin 15) : (writeScrFrom r s).env = s.env := rfl
@[simp] theorem writeScrFrom_isa (r : Fin 15) : (writeScrFrom r s).isa = s.isa := rfl
@[simp] theorem writeScrFrom_mem (r : Fin 15) : (writeScrFrom r s).mem = s.mem := rfl
@[simp] theorem writeScrFrom_nsHold (r : Fin 15) : (writeScrFrom r s).nsHold = (s.nsHold || changesNsOutsideMonitor s.env s.scr (s.scrAfterWrite (s.reg r))) := rfl
@[simp] theorem writeScrFrom_schedule (r : Fin 15) : (writeScrFrom r s).schedule = s.schedule := rfl
@[simp] theorem writeScrFrom_draws (r : Fin 15) : (writeScrFrom r s).draws = s.draws := rfl

/-! ## Registers -/

theorem State.reg_eq (r : Fin 15) : s.reg r = s.regs[r.val] := rfl

@[simp] theorem State.reg_advancePc (n : Nat) (r : Fin 15) : (s.advancePc n).reg r = s.reg r := rfl

@[simp] theorem State.reg_setReg_self (r : Fin 15) (v : Word) : (s.setReg r v).reg r = v := by
  simp [State.reg, State.setReg]

theorem State.reg_setReg_ne (r q : Fin 15) (v : Word) (h : q ≠ r) : (s.setReg r v).reg q = s.reg q := by
  have : r.val ≠ q.val := fun e => h (Fin.ext e.symm)
  simp [State.reg, State.setReg, this]

end Sys2Proof.Machine
end

