-- ==== Sys2Proof/Laws/Access.lean ====
section
/-! SUPPORT. Everything an access instruction can do, said once. -/

namespace Sys2Proof.Machine

theorem regOf_eq_some (t : BitVec 4) (h : t.toNat < 15) : regOf t = some ⟨t.toNat, h⟩ := by simp [regOf, h]

theorem regOf_eq_none (t : BitVec 4) : regOf t = none ↔ t = 15#4 := by
  constructor
  · intro h
    by_cases ht : t.toNat < 15
    · simp [regOf, ht] at h
    · exact BitVec.eq_of_toNat_eq (by have := t.isLt; simp; omega)
  · rintro rfl; rfl

theorem scrAccessCheck_allowed (p : Params) (e : Env) (secure : Bool) :
    scrAccessCheck p e secure = .allowed ↔ p.haveAA32EL3 = true ∧ e.el = .el3 := by
  unfold scrAccessCheck
  cases h : p.haveAA32EL3 <;> cases he : e.el <;> simp
  repeat' split
  all_goals simp

/-- A failed condition only ever advances the pc or raises what the access check names (R136). -/
theorem condFail_eq (s : State) :
    condFail s = .next (s.advancePc 4) ∨ ∃ f, s.accessCheck = .stop f ∧ condFail s = .fault f := by
  unfold condFail
  cases h : s.accessCheck with
  | allowed => exact .inl rfl
  | stop f =>
    by_cases hd : Config.free s.draws .condFail = true
    · exact .inl (by simp [hd])
    · exact .inr ⟨f, rfl, by simp [hd, takeException]⟩

/-- What an access instruction answers when its condition passes and the access is allowed (R137). -/
theorem scrAccess_allowed (cond : Option (BitVec 4)) (rt : BitVec 4) (tr : Fin 15 → State → State) (s : State)
    (hrt : rt.toNat < 15) (hc : cond ≠ some 0b1111#4) (hp : conditionPassed s.env cond = true)
    (ha : s.accessCheck = .allowed) :
    scrAccess cond rt tr s = .next ((tr ⟨rt.toNat, hrt⟩ s).advancePc 4) := by
  simp [scrAccess, regOf_eq_some rt hrt, hc, hp, ha]

/-- Every next state of an access instruction: the transfer was allowed and done, or nothing but the pc moved. -/
theorem scrAccess_next {cond : Option (BitVec 4)} {rt : BitVec 4} {tr : Fin 15 → State → State} {s t : State}
    (h : scrAccess cond rt tr s = .next t) :
    (s.accessCheck = .allowed ∧ conditionPassed s.env cond = true
      ∧ ∃ r, regOf rt = some r ∧ t = (tr r s).advancePc 4)
    ∨ (conditionPassed s.env cond = false ∧ t = s.advancePc 4) := by
  unfold scrAccess at h
  split at h
  · cases h
  next r hr =>
    split at h
    · cases h
    · split at h
      next hp =>
        refine .inr ⟨by simpa using hp, ?_⟩
        rcases condFail_eq s with e | ⟨f, -, e⟩ <;> rw [e] at h <;> cases h
        rfl
      next hp =>
        split at h
        next ha =>
          cases h
          exact .inl ⟨ha, by simpa using hp, r, hr, rfl⟩
        next => cases h

/-- Every fault of an access instruction is the outcome the access check names (R172). -/
theorem scrAccess_fault {cond : Option (BitVec 4)} {rt : BitVec 4} {tr : Fin 15 → State → State} {s : State} {f : Fault}
    (h : scrAccess cond rt tr s = .fault f) : s.accessCheck = .stop f := by
  unfold scrAccess at h
  split at h
  · cases h
  · split at h
    · cases h
    · split at h
      · rcases condFail_eq s with e | ⟨g, hg, e⟩ <;> rw [e] at h <;> cases h
        exact hg
      · split at h
        · cases h
        next g hg => cases h; exact hg

end Sys2Proof.Machine
end

