-- ==== Sys2Proof/Laws/Controlled.lean ====
section
/-! SUPPORT. What an attempt answers is what its verdict says. -/

namespace Sys2Proof.Machine

theorem attempt_monitorTrap (i : UnencodedInsn) (len : Nat) (s : State) (c : TrapCause) :
    attempt i len s = .fault (.monitorTrap c) ↔ s.verdict i = .monitorTrap c := by
  unfold attempt
  cases s.verdict i <;> simp [takeException]
  split <;> simp

theorem attempt_undefined (i : UnencodedInsn) (len : Nat) (s : State) (w : UndefTaken) :
    attempt i len s = .fault (.undefined w) ↔ s.verdict i = .undefined w := by
  unfold attempt
  cases s.verdict i <;> simp [takeException]
  split <;> simp

theorem attempt_lowerException (i : UnencodedInsn) (len : Nat) (s : State) :
    attempt i len s = .fault .lowerException ↔ s.verdict i = .lowerException := by
  unfold attempt
  cases s.verdict i <;> simp [takeException]
  split <;> simp

/-- An attempt raises nothing else. -/
theorem attempt_fault {i : UnencodedInsn} {len : Nat} {s : State} {f : Fault} (h : attempt i len s = .fault f) :
    (∃ c, f = .monitorTrap c ∧ s.verdict i = .monitorTrap c) ∨ (∃ w, f = .undefined w ∧ s.verdict i = .undefined w)
      ∨ (f = .lowerException ∧ s.verdict i = .lowerException) := by
  unfold attempt at h
  cases hv : s.verdict i with
  | monitorTrap c => rw [hv] at h; cases h; exact .inl ⟨c, rfl, rfl⟩
  | undefined w => rw [hv] at h; cases h; exact .inr (.inl ⟨w, rfl, rfl⟩)
  | lowerException => rw [hv] at h; cases h; exact .inr (.inr ⟨rfl, rfl⟩)
  | nop => rw [hv] at h; cases h
  | noSuchState => rw [hv] at h; cases h
  | proceeds =>
    rw [hv] at h
    simp only at h
    split at h <;> cases h

/-- The verdict of a WFE or WFI is a Monitor trap under exactly the conditions of R100 and R101. -/
theorem waitVerdict_monitorTrap (p : Params) (e : Env) (cause c : TrapCause) (passed lower field sleep : Bool) :
    waitVerdict p e cause passed lower field sleep = .monitorTrap c ↔
      live p e = true ∧ passed = true ∧ lower = false ∧ field = true ∧ e.modeIsMonitor = false ∧ sleep = true ∧ c = cause := by
  unfold waitVerdict
  cases live p e <;> cases passed <;> cases lower <;> cases field <;> cases e.modeIsMonitor <;> cases sleep <;>
    simp [eq_comm]

theorem waitVerdict_lowerException (p : Params) (e : Env) (cause : TrapCause) (passed lower field sleep : Bool) :
    waitVerdict p e cause passed lower field sleep = .lowerException ↔ live p e = true ∧ passed = true ∧ lower = true := by
  unfold waitVerdict
  cases live p e <;> cases passed <;> cases lower <;> cases field <;> cases e.modeIsMonitor <;> cases sleep <;> simp

end Sys2Proof.Machine
end

