-- ==== Sys2Proof/Laws/Memory.lean ====
section
/-! SUPPORT. Instruction memory: reads after writes, and that a write keeps the canonical form. -/

namespace Sys2Proof.Machine

theorem memRead_memWrite_self (m : Memory) (x : Nat) (v : Byte) : memRead (memWrite m x v) x = some v := by
  induction m with
  | nil => simp [memWrite, memRead]
  | cons c m ih =>
    obtain ⟨a, b⟩ := c
    simp only [memWrite]
    split
    · simp [memRead]
    · split
      · simp [memRead]
      · have : a ≠ x := fun e => by omega
        simp [memRead, this, ih]

theorem memRead_memWrite_ne (m : Memory) (x y : Nat) (v : Byte) (h : y ≠ x) :
    memRead (memWrite m x v) y = memRead m y := by
  have hxy : ¬ x = y := fun e => h e.symm
  induction m with
  | nil => simp [memWrite, memRead, hxy]
  | cons c m ih =>
    obtain ⟨a, b⟩ := c
    simp only [memWrite]
    split
    · simp [memRead, hxy]
    · split
      next hxa =>
        have : ¬ a = y := by omega
        simp [memRead, hxy, this]
      next => simp only [memRead, ih]

/-- A write at or above `lo` inside the address space keeps the form from `lo` up. -/
theorem memSortedFrom_memWrite (m : Memory) (lo x : Nat) (v : Byte) (hlo : lo ≤ x) (hx : x < 2 ^ 32)
    (h : memSortedFrom lo m = true) : memSortedFrom lo (memWrite m x v) = true := by
  induction m generalizing lo with
  | nil => simp [memWrite, memSortedFrom]; omega
  | cons c m ih =>
    obtain ⟨a, b⟩ := c
    simp only [memSortedFrom, Bool.and_eq_true, decide_eq_true_eq] at h
    simp only [memWrite]
    split
    · simp only [memSortedFrom, Bool.and_eq_true, decide_eq_true_eq]
      exact ⟨⟨hlo, hx⟩, ⟨by omega, h.1.2⟩, h.2⟩
    · split
      next hxa =>
        subst hxa
        simp only [memSortedFrom, Bool.and_eq_true, decide_eq_true_eq]
        exact ⟨⟨hlo, hx⟩, h.2⟩
      next =>
        simp only [memSortedFrom, Bool.and_eq_true, decide_eq_true_eq]
        exact ⟨h.1, ih (a + 1) (by omega) h.2⟩

theorem memWrite_wf (m : Memory) (x : Nat) (v : Byte) (hx : x < 2 ^ 32) (h : Memory.wf m = true) :
    Memory.wf (memWrite m x v) = true :=
  memSortedFrom_memWrite m 0 x v (Nat.zero_le x) hx h

theorem memWriteBytes_wf (m : Memory) (a : Word) (bs : List Byte) (h : Memory.wf m = true) :
    Memory.wf (memWriteBytes m a bs) = true := by
  induction bs generalizing m a with
  | nil => exact h
  | cons b bs ih => exact ih _ _ (memWrite_wf m a.toNat b a.isLt h)

theorem reset_mem_wf : Memory.wf State.reset.mem = true := rfl

end Sys2Proof.Machine
end

