-- ==== Sys2Proof/Laws/PerInstr.lean ====
section
/-! SUPPORT. One fact about every instruction as syntax: its word is a word of its own row of spec/opcode_table.json, with every
operand where the row has it. -/

namespace Sys2Proof.Laws

/-- The row's `mask`. -/
def rowMask : Instr → Word
  | .mrcScrA32 _ _ => 0x0FFF0FFF#32
  | .mcrScrA32 _ _ => 0x0FFF0FFF#32
  | .mrcScrT32 _ => 0xFFFF0FFF#32
  | .mcrScrT32 _ => 0xFFFF0FFF#32

/-- The row's `match`. -/
def rowMatch : Instr → Word
  | .mrcScrA32 _ _ => 0x0E110F11#32
  | .mcrScrA32 _ _ => 0x0E010F11#32
  | .mrcScrT32 _ => 0xEE110F11#32
  | .mcrScrT32 _ => 0xEE010F11#32

/-- The row's free fields: cond [31:28] of an A32 row, Rt [15:12] of every row. -/
def rowFields (w : Word) : Instr → Prop
  | .mrcScrA32 cond rt => w.extractLsb' 28 4 = cond ∧ w.extractLsb' 12 4 = rt
  | .mcrScrA32 cond rt => w.extractLsb' 28 4 = cond ∧ w.extractLsb' 12 4 = rt
  | .mrcScrT32 rt => w.extractLsb' 12 4 = rt
  | .mcrScrT32 rt => w.extractLsb' 12 4 = rt

/-- The word of an instruction is a word of its row. -/
def WordOfRow.Statement (i : Instr) : Prop :=
  encode i &&& rowMask i = rowMatch i ∧ rowFields (encode i) i

theorem WordOfRow.mrcScrA32 (cond rt : BitVec 4) : WordOfRow.Statement (.mrcScrA32 cond rt) := by
  unfold WordOfRow.Statement rowFields
  revert cond rt
  decide

theorem WordOfRow.mcrScrA32 (cond rt : BitVec 4) : WordOfRow.Statement (.mcrScrA32 cond rt) := by
  unfold WordOfRow.Statement rowFields
  revert cond rt
  decide

theorem WordOfRow.mrcScrT32 (rt : BitVec 4) : WordOfRow.Statement (.mrcScrT32 rt) := by
  unfold WordOfRow.Statement rowFields
  revert rt
  decide

theorem WordOfRow.mcrScrT32 (rt : BitVec 4) : WordOfRow.Statement (.mcrScrT32 rt) := by
  unfold WordOfRow.Statement rowFields
  revert rt
  decide

end Sys2Proof.Laws
end

