-- ==== Sys2Proof/Laws/Scr.lean ====
section
/-! SUPPORT. Draws from sets of bit values, the effective value of SCR, and the value a write stores. -/

namespace Sys2Proof.Machine

@[simp] theorem BitSet.mem_true (a : BitSet) : a.mem true = a.has1 := rfl

@[simp] theorem BitSet.mem_false (a : BitSet) : a.mem false = a.has0 := rfl

@[simp] theorem BitSet.mem_union (a b : BitSet) (x : Bool) : (a.union b).mem x = (a.mem x || b.mem x) := by
  cases x <;> rfl

/-- A draw from a set that is not empty is a value of the set. -/
theorem BitSet.pick_mem (a : BitSet) (free : Bool) (h : a.has0 = true ∨ a.has1 = true) : a.mem (a.pick free) = true := by
  obtain ⟨x, y⟩ := a
  cases x <;> cases y <;> cases free <;> simp_all [BitSet.pick, BitSet.mem]

/-- A draw from a set that lacks a value is the other one. -/
theorem BitSet.pick_of_not_mem (a : BitSet) (free b : Bool) (h : a.has0 = true ∨ a.has1 = true) (hb : a.mem b = false) :
    a.pick free = !b := by
  obtain ⟨x, y⟩ := a
  cases b <;> cases x <;> cases y <;> simp_all [BitSet.pick, BitSet.mem]

/-- The current SCR is always a candidate of SCR_eff (R205). -/
theorem State.scr_mem_effCandidates (s : State) : s.scr ∈ s.effCandidates := by
  unfold State.effCandidates; split <;> simp

theorem State.mem_effSet (s : State) (f : Field) (b : Bool) :
    (s.effSet f).mem b = true ↔ ∃ v ∈ s.effCandidates, fieldBit f v = b := by
  cases b <;> simp [State.effSet, BitSet.mem]

theorem State.effSet_nonempty (s : State) (f : Field) : (s.effSet f).has0 = true ∨ (s.effSet f).has1 = true := by
  cases h : fieldBit f s.scr with
  | false => exact .inl ((s.mem_effSet f false).2 ⟨_, s.scr_mem_effCandidates, h⟩)
  | true => exact .inr ((s.mem_effSet f true).2 ⟨_, s.scr_mem_effCandidates, h⟩)

theorem State.eff_of_absent (s : State) (r : Reader) (f : Field) (h : fieldPresent s.params f = false) :
    s.eff r f = false := by
  simp [State.eff, h]

/-- An indirect read of a present field sees a value the field has held since the last ContextSync (R205). -/
theorem State.eff_mem_effSet (s : State) (r : Reader) (f : Field) (h : fieldPresent s.params f = true) :
    (s.effSet f).mem (s.eff r f) = true := by
  simpa [State.eff, h] using (s.effSet f).pick_mem _ (s.effSet_nonempty f)

/-- Where every candidate agrees on a field, an indirect read sees that value. -/
theorem State.eff_of_forall (s : State) (r : Reader) (f : Field) (b : Bool)
    (hb : ∀ v ∈ s.effCandidates, fieldBit f v = b) :
    s.eff r f = (fieldPresent s.params f && b) := by
  cases hp : fieldPresent s.params f with
  | false => simp [State.eff, hp]
  | true =>
    obtain ⟨v, hv, e⟩ := (s.mem_effSet f _).1 (s.eff_mem_effSet r f hp)
    simpa [← e] using hb v hv

theorem namedMask_and_res0Mask (p : Params) : namedMask p &&& res0Mask p = 0#32 := by
  simp [res0Mask, BitVec.and_not_self]

/-- R134: every value a write stores obeys the invariant of R40. -/
theorem storable_storedValue (p : Params) (v : Word) : storable p (storedValue p v) = true := by
  simp only [storable, storedValue, res0Mask, beq_iff_eq]
  ext i hi
  simp
  cases v[i] <;> cases (namedMask p)[i] <;> cases (p.res0ReadbackMask)[i] <;> simp

/-- R134: a value that obeys the invariant is stored as it is. -/
theorem storedValue_of_storable (p : Params) (v : Word) (h : storable p v = true) : storedValue p v = v := by
  simp only [storable, res0Mask, beq_iff_eq] at h
  ext i hi
  have hb : (v &&& ~~~(namedMask p) &&& ~~~p.res0ReadbackMask)[i] = (0#32)[i] := by rw [h]
  simp [storedValue, res0Mask] at hb ⊢
  revert hb
  cases v[i] <;> cases (namedMask p)[i] <;> cases (p.res0ReadbackMask)[i] <;> simp

theorem storable_zero (p : Params) : storable p 0#32 = true := by simp [storable]

end Sys2Proof.Machine
end

