-- ==== Sys2Proof/Laws/Step.lean ====
section
/-! SUPPORT. What one step can do: an inversion lemma for each operation a step is made of. -/

namespace Sys2Proof.Machine

theorem afterStep_next {r : Result} {t : State} (h : afterStep r = .next t) :
    ∃ u, r = .next u ∧ t = { u with draws := u.draws + 1 } := by
  cases r with
  | next u => exact ⟨u, rfl, by simpa [afterStep] using h.symm⟩
  | fault f => cases h
  | refused f => cases h

theorem peTurn_next {s t : State} {k : State → Result} (h : peTurn s k = .next t) : s.nsHold = false ∧ k s = .next t := by
  unfold peTurn at h
  split at h
  · cases h
  next hn => exact ⟨by simpa using hn, h⟩

theorem fetched_next {s t : State} {k : State → Result} (h : fetched s k = .next t) :
    secureFetchStopped s = false ∧ k s = .next t := by
  unfold fetched at h
  split at h
  · split at h <;> cases h
  next hn => exact ⟨by simpa using hn, h⟩

theorem withInstrAt_next {s t : State} {k : Instr → Result} (h : withInstrAt s k = .next t) :
    ∃ i bs rest, memReadBytes s.mem s.pc 4 = .ok bs ∧ decode s.isa s.params.instrBigEndian bs = .ok (i, rest)
      ∧ k i = .next t := by
  unfold withInstrAt at h
  split at h
  · cases h
  · split at h
    · cases h
    next bs hbs =>
      split at h
      next i rest hd => exact ⟨i, bs, rest, hbs, hd, h⟩
      next => cases h

/-- An attempt that answers a next state has moved the pc and nothing else (R107). -/
theorem attempt_next {i : UnencodedInsn} {len : Nat} {s t : State} (h : attempt i len s = .next t) :
    t = s.advancePc len := by
  unfold attempt at h
  split at h <;> try (cases h; done)
  · cases h; rfl
  · split at h <;> cases h
    rfl

/-- Taking an asynchronous exception answers a next state only where it is not taken, and changes nothing (R168). -/
theorem takeAsync_next {k : AsyncKind} {s t : State} (h : takeAsync k s = .next t) : t = s := by
  unfold takeAsync at h
  repeat' split at h
  all_goals first | cases h; rfl | cases h

/-- Everything an instruction of the table can do to the state. -/
theorem exec_next {i : Instr} {s t : State} (h : exec i s = .next t) :
    t = s.advancePc 4
      ∨ (s.accessCheck = .allowed ∧ ∃ r, t = (readScr r s).advancePc 4 ∨ t = (writeScrFrom r s).advancePc 4) := by
  cases i with
  | mrcScrA32 c rt | mrcScrT32 rt =>
    rcases scrAccess_next h with ⟨ha, -, r, -, e⟩ | ⟨-, e⟩
    · exact .inr ⟨ha, r, .inl e⟩
    · exact .inl e
  | mcrScrA32 c rt | mcrScrT32 rt =>
    rcases scrAccess_next h with ⟨ha, -, r, -, e⟩ | ⟨-, e⟩
    · exact .inr ⟨ha, r, .inr e⟩
    · exact .inl e

/-- Everything a turn can do to the state. -/
theorem runTurn_next {x : Turn} {s t : State} (h : runTurn x s = .next t) :
    (x = .pe ∧ ∃ i bs rest, memReadBytes s.mem s.pc 4 = .ok bs
        ∧ decode s.isa s.params.instrBigEndian bs = .ok (i, rest) ∧ exec i s = .next t)
    ∨ (∃ i len, x = .attempt i len ∧ t = s.advancePc len)
    ∨ (∃ k, x = .takeAsync k ∧ t = s)
    ∨ (∃ e, x = .env e ∧ t = applyEnvEvent e s) := by
  cases x with
  | pe =>
    simp only [runTurn, peStep] at h
    exact .inl ⟨rfl, withInstrAt_next (fetched_next (peTurn_next h).2).2⟩
  | attempt i len =>
    simp only [runTurn] at h
    exact .inr (.inl ⟨i, len, rfl, attempt_next (fetched_next (peTurn_next h).2).2⟩)
  | takeAsync k => exact .inr (.inr (.inl ⟨k, rfl, takeAsync_next (peTurn_next h).2⟩))
  | env e => exact .inr (.inr (.inr ⟨e, rfl, by simpa [runTurn] using h.symm⟩))

/-- A step is a turn, and the draws' counter moves on. -/
theorem step_next {s t : State} (h : step s = .next t) :
    ∃ u, runTurn (takeTurn s).1 (takeTurn s).2 = .next u ∧ t = { u with draws := u.draws + 1 } :=
  afterStep_next h

/-- Taking a turn off the schedule changes nothing else. -/
theorem takeTurn_snd (s : State) : (takeTurn s).2 = { s with schedule := s.schedule.tail } := by
  obtain ⟨p, r, pc, c, e, t, v, i, m, n, sch, d⟩ := s
  cases sch <;> rfl

end Sys2Proof.Machine
end

