-- ==== Sys2Proof/Tests/Slice0.lean ====
section
/-! SUPPORT. Tests, with the expected values of spec/95_test_vectors.md (row ids in the comments), and a witness for each statement
that has hypotheses. -/

namespace Sys2Proof.Tests

open Sys2Proof Sys2Proof.Machine

/-! ## Helpers -/

/-- "all features" and "no features" of 95, with `SCR_WRITE_SYNC = immediate`. -/
def feat (ras el2 net : Bool) (rrm : Word) : Params :=
  { Config.resetParams with haveRas := ras, haveRasV1p1 := false, haveAA32EL2 := el2, haveNet := net
                            res0ReadbackMask := rrm, scrWriteSync := .immediate }

def allFeat : Params := feat true true true 0#32

/-- The modes of 95: Monitor, Secure SVC, NS EL1, and another level in Non-secure state. -/
def secureSvc : Env := Env.atReset
def monitor : Env := { Env.atReset with modeIsMonitor := true, modeIsSecurePl1NotMonitor := false }
def nsAt (el : EL) : Env := { Env.atReset with el := el, modeIsSecurePl1NotMonitor := false, secure := false }
def nsEl1 : Env := nsAt .el1

/-- A machine with one general register set. -/
def mach (p : Params) (e : Env) (scr : Word) (r : Fin 15) (v pc : Word) : State :=
  { State.reset with params := p, env := e, scr := scr, regs := State.reset.regs.set r.val v, pc := pc }

def scrOf : Result → Option Word
  | .next t => some t.scr
  | .fault _ => none
  | .refused _ => none

def pcOf : Result → Option Word
  | .next t => some t.pc
  | .fault _ => none
  | .refused _ => none

def regIn (r : Fin 15) : Result → Option Word
  | .next t => some (t.reg r)
  | .fault _ => none
  | .refused _ => none

def faultOf : Result → Option Fault
  | .fault f => some f
  | .next _ => none
  | .refused _ => none

def refusalOf : Result → Option Refusal
  | .refused r => some r
  | .next _ => none
  | .fault _ => none

/-! ## Well-formedness and decoding -/

theorem test_rt15_is_ill_formed :
    (Instr.mrcScrA32 14#4 15#4).wellFormed = false ∧ (Instr.mcrScrA32 14#4 15#4).wellFormed = false
      ∧ (Instr.mrcScrT32 15#4).wellFormed = false ∧ (Instr.mcrScrT32 15#4).wellFormed = false
      ∧ (Instr.mcrScrT32 14#4).wellFormed = true := by decide

theorem test_cond15_is_ill_formed :
    (Instr.mrcScrA32 15#4 0#4).wellFormed = false ∧ (Instr.mcrScrA32 15#4 0#4).wellFormed = false
      ∧ (Instr.mrcScrA32 0#4 0#4).wellFormed = true := by decide

/-- R86: cond 1110, 1110, opc1 000, L, CRn 0001, Rt, coproc 1111, opc2 000, 1, CRm 0001, written out. -/
theorem test_decode_a32_bit_by_bit :
    decodeWord .a32 0b1110_1110_000_1_0001_0010_1111_000_1_0001#32 = .ok (.mrcScrA32 14#4 2#4)
      ∧ decodeWord .a32 0b0000_1110_000_0_0001_1110_1111_000_1_0001#32 = .ok (.mcrScrA32 0#4 14#4) := by decide

/-- R87: hw1 11101110, opc1 000, L, CRn 0001; hw2 Rt, coproc 1111, opc2 000, 1, CRm 0001, written out. -/
theorem test_decode_t32_bit_by_bit :
    decodeWord .t32 (0b11101110_000_1_0001#16 ++ 0b0011_1111_000_1_0001#16) = .ok (.mrcScrT32 3#4)
      ∧ decodeWord .t32 (0b11101110_000_0_0001#16 ++ 0b0001_1111_000_1_0001#16) = .ok (.mcrScrT32 1#4) := by decide

/-- E3 and E14 as bytes, in both byte orders (R64): an A32 word is one unit of 4 bytes, a T32 pair two units of 2. -/
theorem test_decode_bytes :
    decode .a32 false [0x11#8, 0x2F#8, 0x11#8, 0xEE#8] = .ok (.mrcScrA32 14#4 2#4, [])
      ∧ decode .a32 true [0xEE#8, 0x11#8, 0x2F#8, 0x11#8] = .ok (.mrcScrA32 14#4 2#4, [])
      ∧ decode .t32 false [0x11#8, 0xEE#8, 0x11#8, 0x3F#8] = .ok (.mrcScrT32 3#4, [])
      ∧ decode .t32 true [0xEE#8, 0x11#8, 0x3F#8, 0x11#8, 0xAA#8] = .ok (.mrcScrT32 3#4, [0xAA#8])
      ∧ decode .t32 true [0xEE#8, 0x11#8, 0x3F#8] = .error .tooShort := by decide

/-- The four rows of the opcode table, free fields 0, and the rows of P2. -/
theorem test_decode_table_words :
    decodeTableWord 32 0x0E110F11 = some (.mrcScrA32 0#4 0#4) ∧ decodeTableWord 32 0x0E010F11 = some (.mcrScrA32 0#4 0#4)
      ∧ decodeTableWord 32 0xEE110F11 = some (.mrcScrT32 0#4) ∧ decodeTableWord 32 0xEE010F11 = some (.mcrScrT32 0#4)
      ∧ decodeTableWord 32 0xFE110F11 = none := by decide

/-! ## A step from reset -/

/-- R202, R203 and log 4: the environment State.reset carries is consistent, and its parameters are admissible. -/
theorem test_reset_is_consistent :
    envConsistent State.reset.env = true ∧ State.reset.secureConsistent = true ∧ paramsAdmissible State.reset.params = true
      ∧ State.reset.scr = 0#32 := by decide

theorem test_step_runs_each_row_after_reset :
    pcOf (step (State.reset.withFetchWord 32 0x0E110F11)) = some 4#32
      ∧ pcOf (step (State.reset.withFetchWord 32 0x0E010F11)) = some 4#32
      ∧ pcOf (step (State.reset.withFetchWord 32 0xEE110F11)) = some 4#32
      ∧ pcOf (step (State.reset.withFetchWord 32 0xEE010F11)) = some 4#32
      ∧ faultOf (step State.reset) = some (.fetchUnwritten 0)
      ∧ refusalOf (step (State.reset.withFetchWord 32 0xEE11FF11)) = some (.undecodable .rtIs15) := by decide

/-! ## The access check, MRC and MCR -/

/-- Rows A1 to A18 of 95 section 2.1: el2Enabled, HAVE_AA64EL2, HAVE_AA32EL2, el2Aarch32, T1_64, T1_32, HAVE_AA64EL3, el3Aarch32. -/
def check (h : Bool) (el : EL) (e2en h64e2 h32e2 e2a32 t64 t32 sec h64e3 e3a32 : Bool) : Access :=
  scrAccessCheck
    { allFeat with haveAA32EL3 := h, haveAA64EL2 := h64e2, haveAA32EL2 := h32e2, haveAA64EL3 := h64e3 }
    { nsEl1 with el := el, el2Enabled := e2en, el2Aarch32 := e2a32, hstrEl2T1 := t64, hstrT1 := t32, el3Aarch32 := e3a32 } sec

theorem test_access_check_levels :
    check false .el3 false false false false false false false false false = .stop (.undefined .notSaid)
      ∧ check false .el1 true true false false true false false false false = .stop (.undefined .notSaid)
      ∧ check true .el0 true true true true true true true true true = .stop (.undefined .notSaid)
      ∧ check true .el2 true true true true true true true true true = .stop (.undefined .notSaid)
      ∧ check true .el3 false false false false false false false false false = .allowed := by decide

theorem test_access_check_el1 :
    check true .el1 true true true false true false false false false = .stop (.trapAArch64 .el2 3)
      ∧ check true .el1 true false true true false true false false false = .stop (.hypTrap 3)
      ∧ check true .el1 true true false false false false true false false = .stop (.trapAArch64 .el2 3)
      ∧ check true .el1 false false false false false false true true false = .stop (.trapAArch64 .el3 3)
      ∧ check true .el1 false false false false false false false false false = .stop (.undefined .notSaid)
      ∧ check true .el1 true false true true false false false false false = .stop (.undefined .notSaid)
      ∧ check true .el1 true true false false true false true true false = .stop (.trapAArch64 .el2 3)
      ∧ check true .el1 true true false false false false false true false = .stop (.undefined .notSaid)
      ∧ check true .el1 false true true true true true false false false = .stop (.undefined .notSaid)
      ∧ check true .el1 false false false false false false true true true = .stop (.undefined .notSaid)
      ∧ check true .el1 true true false true true true false false false = .stop (.undefined .notSaid)
      ∧ check true .el1 true false true false true true true false false = .stop (.undefined .notSaid)
      ∧ check true .el1 true true true true true true true true false = .stop (.hypTrap 3) := by decide

/-- M2, M6 (T32), M10: the value read, the pc and its wrap. -/
theorem test_mrc_reads_scr :
    regIn 2 (exec (.mrcScrA32 14#4 2#4) (mach allFeat monitor 0x131#32 2 0xDEADBEEF#32 0x8000#32)) = some 0x131#32
      ∧ pcOf (exec (.mrcScrA32 14#4 2#4) (mach allFeat monitor 0x131#32 2 0xDEADBEEF#32 0x8000#32)) = some 0x8004#32
      ∧ regIn 2 (exec (.mrcScrT32 2#4) (mach allFeat secureSvc 0x131#32 2 0#32 0x8000#32)) = some 0x131#32
      ∧ pcOf (exec (.mrcScrA32 14#4 0#4) (mach allFeat monitor 0#32 0 0#32 0xFFFFFFFC#32)) = some 0#32 := by decide

/-- M5, M7, M8: `t = 15`, EL2, a failed condition. -/
theorem test_mrc_stops :
    refusalOf (exec (.mrcScrA32 14#4 15#4) (mach allFeat (nsAt .el0) 0x131#32 2 0#32 0x8000#32)) = some .rtIs15
      ∧ faultOf (exec (.mrcScrT32 2#4) (mach allFeat (nsAt .el2) 0x131#32 2 0#32 0x8000#32)) = some (.undefined .notSaid)
      ∧ regIn 2 (exec (.mrcScrA32 0#4 2#4)
          (mach allFeat { monitor with condPassed := false } 0x131#32 2 0x12345678#32 0x8000#32)) = some 0x12345678#32 := by
  decide

/-- W1 to W8 of 95 section 2.3, by feature set and RES0_READBACK_MASK. -/
theorem test_mcr_masks :
    scrOf (exec (.mcrScrA32 14#4 1#4) (mach allFeat monitor 0#32 1 0xFFFFFFFF#32 0#32)) = some 0xB3FF#32
      ∧ scrOf (exec (.mcrScrT32 1#4) (mach (feat true true true 0xFFFF4C00#32) monitor 0#32 1 0xFFFFFFFF#32 0#32))
          = some 0xFFFFFFFF#32
      ∧ scrOf (exec (.mcrScrT32 1#4) (mach (feat false false false 0#32) monitor 0#32 1 0xFFFFFFFF#32 0#32)) = some 0x32BF#32
      ∧ scrOf (exec (.mcrScrT32 1#4) (mach (feat true false false 0#32) monitor 0#32 1 0xFFFFFFFF#32 0#32)) = some 0xB2BF#32
      ∧ scrOf (exec (.mcrScrT32 1#4) (mach (feat false true false 0#32) monitor 0#32 1 0xFFFFFFFF#32 0#32)) = some 0x33BF#32
      ∧ scrOf (exec (.mcrScrT32 1#4) (mach (feat false false true 0#32) monitor 0#32 1 0xFFFFFFFF#32 0#32)) = some 0x32FF#32
      ∧ scrOf (exec (.mcrScrA32 14#4 1#4) (mach (feat true true true 0x4000#32) monitor 0#32 1 0x1C000#32 0#32))
          = some 0xC000#32 := by decide

/-- W9, W14, W15 with D24, W16, W17, W18, W22: each clause of NsIsHeldUnderTge. -/
theorem test_mcr_ns_and_tge :
    scrOf (exec (.mcrScrA32 14#4 1#4) (mach allFeat monitor 0xB3FF#32 1 0#32 0#32)) = some 0#32
      ∧ scrOf (exec (.mcrScrA32 14#4 1#4) (mach allFeat { secureSvc with hcrTge := true } 0#32 1 0x31#32 0#32)) = some 0x30#32
      ∧ scrOf (exec (.mcrScrA32 14#4 1#4) (mach allFeat secureSvc 0#32 1 0x31#32 0#32)) = some 0x31#32
      ∧ scrOf (exec (.mcrScrA32 14#4 1#4) (mach allFeat { monitor with hcrTge := true } 0#32 1 0x31#32 0#32)) = some 0x31#32
      ∧ scrOf (exec (.mcrScrA32 14#4 1#4) (mach allFeat { secureSvc with hcrTge := true } 1#32 1 1#32 0#32)) = some 1#32
      ∧ scrOf (exec (.mcrScrT32 1#4) (mach allFeat { monitor with hcrTge := true } 1#32 1 0#32 0#32)) = some 0#32
      ∧ scrOf (exec (.mcrScrA32 0#4 1#4) (mach allFeat { monitor with condPassed := false } 0x131#32 1 0xFFFFFFFF#32 0#32))
          = some 0x131#32 := by decide

/-! ## WFE, WFI, HVC, SMC, error records -/

/-- F1 to F10, F13, F14, F16, F18: condition, TWE or TWI, the draw. -/
theorem test_wait_verdicts :
    wfeVerdict allFeat nsEl1 true true true = .monitorTrap .wfe
      ∧ wfeVerdict allFeat nsEl1 true true false = .proceeds
      ∧ wfeVerdict allFeat { nsEl1 with wfeTrappedLower := true } true true true = .lowerException
      ∧ wfeVerdict allFeat nsEl1 false true true = .proceeds
      ∧ wfeVerdict allFeat monitor true true true = .proceeds
      ∧ wfeVerdict allFeat secureSvc true true true = .monitorTrap .wfe
      ∧ wfeVerdict allFeat nsEl1 true false true = .proceeds
      ∧ wfeVerdict allFeat { nsEl1 with el3Aarch32 := false } true true true = .proceeds
      ∧ wfiVerdict allFeat secureSvc true true true = .monitorTrap .wfi
      ∧ wfiVerdict allFeat monitor true true true = .proceeds
      ∧ wfiVerdict allFeat { nsEl1 with wfiTrappedLower := true } true true true = .lowerException := by decide

/-- F3, F5 and R103, F16 as attempts: a Wakeup event pending, a failed condition, a lower exception. The middle one meets the last
clause of TrappedWaitsNeverSleep. -/
theorem test_wait_attempts :
    pcOf (attempt (.wfe none) 4 (mach allFeat { nsEl1 with wakeupPending := true } 0x2001#32 0 0#32 0x100#32)) = some 0x104#32
      ∧ pcOf (attempt (.wfi (some 0#4)) 2 (mach allFeat { nsEl1 with condPassed := false } 0x3001#32 0 0#32 0x100#32))
          = some 0x102#32
      ∧ faultOf (attempt (.wfi none) 4 (mach allFeat { nsEl1 with wfiTrappedLower := true } 0x3001#32 0 0#32 0#32))
          = some .lowerException := by decide

/-- H1 to H12. -/
theorem test_hvc :
    faultOf (attempt .hvc 4 (mach (feat true false true 0#32) nsEl1 1#32 0 0#32 0#32)) = some (.undefined .notSaid)
      ∧ faultOf (attempt .hvc 4 (mach allFeat (nsAt .el0) 0x101#32 0 0#32 0#32)) = some (.undefined .notSaid)
      ∧ faultOf (attempt .hvc 4 (mach allFeat secureSvc 0x100#32 0 0#32 0#32)) = some (.undefined .notSaid)
      ∧ faultOf (attempt .hvc 4 (mach allFeat monitor 0x101#32 0 0#32 0#32)) = some (.undefined .notSaid)
      ∧ refusalOf (attempt .hvc 4 (mach allFeat nsEl1 0x101#32 0 0#32 0#32)) = some (.proceeds .hvc)
      ∧ faultOf (attempt .hvc 4 (mach allFeat nsEl1 1#32 0 0#32 0#32)) = some (.undefined .fromPl1ToPl1)
      ∧ refusalOf (attempt .hvc 4 (mach allFeat (nsAt .el2) 0x101#32 0 0#32 0#32)) = some (.proceeds .hvc)
      ∧ faultOf (attempt .hvc 4 (mach allFeat (nsAt .el2) 1#32 0 0#32 0#32)) = some (.undefined .notSaid)
      ∧ pcOf (attempt .hvc 4 (mach { allFeat with hvcEl2Disabled := .nop } (nsAt .el2) 1#32 0 0#32 0#32)) = some 4#32
      ∧ refusalOf (attempt .hvc 4 (mach allFeat { nsEl1 with el3Aarch32 := false } 1#32 0 0#32 0#32)) = some (.proceeds .hvc)
      ∧ faultOf (attempt .hvc 4 (mach allFeat { nsEl1 with el3Aarch32 := false, secure := true } 1#32 0 0#32 0#32))
          = some (.undefined .notSaid)
      ∧ faultOf (attempt .hvc 4 (mach (feat true false true 0x100#32) nsEl1 0x101#32 0 0#32 0#32))
          = some (.undefined .notSaid)
      ∧ refusalOf (attempt .hvc 4 (mach allFeat (nsAt .el3) 1#32 0 0#32 0#32)) = some .noSuchState := by decide

/-- S1, S3 to S11. -/
theorem test_smc :
    faultOf (attempt .smc 4 (mach allFeat (nsAt .el0) 1#32 0 0#32 0#32)) = some (.undefined .notSaid)
      ∧ refusalOf (attempt .smc 4 (mach allFeat nsEl1 1#32 0 0#32 0#32)) = some (.proceeds .smc)
      ∧ faultOf (attempt .smc 4 (mach allFeat nsEl1 0x81#32 0 0#32 0#32)) = some (.undefined (.atCurrentEl .el1))
      ∧ faultOf (attempt .smc 4 (mach allFeat (nsAt .el2) 0x81#32 0 0#32 0#32)) = some (.undefined (.atCurrentEl .el2))
      ∧ faultOf (attempt .smc 4 (mach allFeat secureSvc 0x80#32 0 0#32 0#32)) = some (.undefined .notSaid)
      ∧ pcOf (attempt .smc 4 (mach { allFeat with smcSecureDisabled := .nop } secureSvc 0x80#32 0 0#32 0#32)) = some 4#32
      ∧ refusalOf (attempt .smc 4 (mach allFeat secureSvc 0#32 0 0#32 0#32)) = some (.proceeds .smc)
      ∧ pcOf (attempt .smc 4 (mach { allFeat with smcSecureDisabled := .nop } monitor 0x81#32 0 0#32 0#32)) = some 4#32
      ∧ refusalOf (attempt .smc 4 (mach allFeat { nsEl1 with el3Aarch32 := false } 0x81#32 0 0#32 0#32))
          = some (.proceeds .smc) := by decide

/-- T1 to T10, T13. -/
def err (p : Params) (e : Env) (scr : Word) (k : ErrKind) (r : ErrReg) : Result :=
  attempt (.errAccess k r) 4 (mach p e scr 0 0#32 0#32)

theorem test_error_records_trapped :
    faultOf (err allFeat nsEl1 0x8001#32 .mrc .erxstatus) = some (.monitorTrap .ec03)
      ∧ faultOf (err allFeat nsEl1 0x8001#32 .mcr .errselr) = some (.monitorTrap .ec03)
      ∧ faultOf (err allFeat nsEl1 0x8001#32 .mrrc .erxaddr) = some (.monitorTrap .ec04)
      ∧ faultOf (err allFeat nsEl1 0x8001#32 .mcrr .erxmisc0) = some (.monitorTrap .ec04)
      ∧ faultOf (err allFeat secureSvc 0x8000#32 .mrc .erridr) = some (.monitorTrap .ec03)
      ∧ faultOf (err { allFeat with haveRasV1p1 := true } nsEl1 0x8001#32 .mrc .erxmisc7) = some (.monitorTrap .ec03)
      ∧ faultOf (err allFeat (nsAt .el2) 0x8001#32 .mrc .erxfr) = some (.monitorTrap .ec03) := by decide

theorem test_error_records_not_trapped :
    refusalOf (err allFeat monitor 0x8000#32 .mrc .erridr) = some (.proceeds (.errAccess .mrc .erridr))
      ∧ refusalOf (err allFeat nsEl1 1#32 .mrc .erxstatus) = some (.proceeds (.errAccess .mrc .erxstatus))
      ∧ refusalOf (err allFeat nsEl1 0x8001#32 .mrc .erxmisc4) = some (.proceeds (.errAccess .mrc .erxmisc4))
      ∧ refusalOf (err (feat false true true 0x8000#32) nsEl1 0x8001#32 .mrc .erxstatus)
          = some (.proceeds (.errAccess .mrc .erxstatus))
      ∧ refusalOf (err allFeat nsEl1 0x8001#32 .mrc .other) = some (.proceeds (.errAccess .mrc .other))
      ∧ errVerdict allFeat { nsEl1 with errOtherException := true } .mrc .erxstatus true true = .lowerException
      ∧ errVerdict allFeat { nsEl1 with errOtherException := true } .mrc .erxstatus true false = .monitorTrap .ec03 := by decide

/-! ## Routing, masking, fetch, reset -/

/-- Everything pending, nothing masked by another control. -/
def pending (e : Env) : Env :=
  { e with irqPending := true, fiqPending := true, abortPending := true
           irqMasked := false, fiqMaskedOther := false, abortMaskedOther := false }

/-- Q1 to Q9. -/
theorem test_routing :
    faultOf (takeAsync .irq (mach allFeat (pending monitor) 0#32 0 0#32 0#32)) = some (.taken .irq .irqMode)
      ∧ faultOf (takeAsync .irq (mach allFeat (pending monitor) 2#32 0 0#32 0#32)) = some (.taken .irq .monitorMode)
      ∧ faultOf (takeAsync .fiq (mach allFeat (pending monitor) 0#32 0 0#32 0#32)) = some (.taken .fiq .fiqMode)
      ∧ faultOf (takeAsync .fiq (mach allFeat (pending nsEl1) 5#32 0 0#32 0#32)) = some (.taken .fiq .monitorMode)
      ∧ faultOf (takeAsync .externalAbort (mach allFeat (pending monitor) 0#32 0 0#32 0#32))
          = some (.taken .externalAbort .abortMode)
      ∧ faultOf (takeAsync .externalAbort (mach allFeat (pending nsEl1) 9#32 0 0#32 0#32))
          = some (.taken .externalAbort .monitorMode)
      ∧ faultOf (takeAsync .irq (mach allFeat (pending monitor) 0xC#32 0 0#32 0#32)) = some (.taken .irq .irqMode)
      ∧ faultOf (takeAsync .fiq (mach allFeat (pending monitor) 0xA#32 0 0#32 0#32)) = some (.taken .fiq .fiqMode)
      ∧ refusalOf (takeAsync .irq (mach allFeat { pending nsEl1 with el3Aarch32 := false } 2#32 0 0#32 0#32))
          = some (.notDecidedByScr .irq) := by decide

/-- K1 to K12 (and L1 to L12: the same function): EA, AMO, AW, from Secure, PSTATE.A. -/
theorem test_masking :
    maskedByScr false false false false true = none ∧ maskedByScr false false true true false = none
      ∧ maskedByScr true true false false true = none ∧ maskedByScr true true true true true = none
      ∧ maskedByScr true false false false false = some false ∧ maskedByScr true false false false true = some false
      ∧ maskedByScr true false false true false = some false ∧ maskedByScr true false false true true = some true
      ∧ maskedByScr true false true false false = some false ∧ maskedByScr true false true false true = some true
      ∧ maskedByScr true false true true false = some false ∧ maskedByScr true false true true true = some true := by decide

/-- Instruction bytes in Non-secure memory, and a TLB that holds the current SIF alone. -/
def fetchState (e : Env) (scr : Word) : State :=
  { mach allFeat { e with fetchFromNonsecure := true } scr 0 0#32 0#32 with tlbSif := BitSet.singleton (fieldBit .sif scr) }

/-- I1 to I4, and D2 of R109: each clause of SecureFetchIsDeniedBySif. -/
theorem test_secure_fetch :
    faultOf (step (fetchState secureSvc 0x200#32)) = some .secureFetchDenied
      ∧ faultOf (step { fetchState secureSvc 0x200#32 with schedule := [.attempt .smc 4] }) = some .secureFetchDenied
      ∧ refusalOf (step (fetchState { secureSvc with el3Aarch32 := false } 0x200#32)) = some .fetchNotDecidedByScr
      ∧ secureFetchStopped { fetchState secureSvc 0x200#32 with env := secureSvc } = false
      ∧ secureFetchStopped (fetchState secureSvc 0#32) = false
      ∧ secureFetchStopped (fetchState nsEl1 0x201#32) = false
      ∧ secureFetchStopped (fetchState monitor 0x201#32) = true := by decide

/-- 95 section 2.11: the values a fetch may see after MCR, ContextSync and TlbInvalidate. -/
theorem test_tlb_history :
    let s := (State.reset.writeScr 0x200#32).contextSync
    s.sifSet = ⟨true, true⟩ ∧ s.tlbInvalidate.sifSet = ⟨false, true⟩
      ∧ (s.tlbInvalidate.writeScr 0#32).contextSync.sifSet = ⟨true, true⟩ := by decide

/-- 95 section 2.12, steps 3 and 6: the candidates of SCR_eff.TWE when writes lag, and when they are immediate. -/
theorem test_write_to_effect :
    (State.reset.writeScr 0x2000#32).effSet .twe = ⟨true, true⟩
      ∧ (State.reset.writeScr 0x2000#32).contextSync.effSet .twe = ⟨false, true⟩
      ∧ ((mach allFeat secureSvc 0#32 0 0#32 0#32).writeScr 0x2000#32).effSet .twe = ⟨false, true⟩ := by decide

/-- Z1, Z4 to Z6. -/
theorem test_warm_reset :
    let s := (mach allFeat monitor 0xB3FF#32 0 0#32 0#32).warmReset { Launch.atReset with env := pending secureSvc }
    s.scr = 0#32 ∧ s.sifSet = ⟨true, false⟩ ∧ faultOf (takeAsync .irq s) = some (.taken .irq .irqMode)
      ∧ faultOf (attempt .hvc 4 s) = some (.undefined .notSaid) ∧ refusalOf (attempt .smc 4 s) = some (.proceeds .smc) := by
  decide

/-! ## Witnesses: a state and operands that meet the hypotheses of each statement that has some -/

/-- A machine at EL3 in Monitor mode with MRC p15, 0, r2, c1, c1, 0 (E3) and MCR p15, 0, r1, c1, c1, 0 after it at `pc`. -/
def runnable (scr : Word) : State :=
  { mach allFeat monitor scr 1 0x31#32 0#32 with
    mem := [(0, 0x11#8), (1, 0x2F#8), (2, 0x11#8), (3, 0xEE#8), (4, 0x11#8), (5, 0x1F#8), (6, 0x01#8), (7, 0xEE#8)] }

theorem witness_DecodeInvertsEncode :
    (Instr.mrcScrA32 0#4 0#4).wellFormed = true ∧ (Instr.mcrScrA32 14#4 14#4).wellFormed = true
      ∧ (Instr.mrcScrT32 14#4).wellFormed = true ∧ (Instr.mcrScrT32 0#4).wellFormed = true := by decide

theorem witness_DecodedBytesAreAnEncoding :
    decode .t32 false [0x01#8, 0xEE#8, 0x11#8, 0xEF#8] = .ok (.mcrScrT32 14#4, []) := by decide

theorem witness_OtherSystemRegistersAreRefused :
    (0xEE110F31#32).extractLsb' 4 1 = 1#1 ∧ (0xEE110F31#32).extractLsb' 5 3 ≠ 0#3
      ∧ (0xEE110F31#32).extractLsb' 24 4 = 14#4 ∧ (0xEE110F31#32).extractLsb' 28 4 ≠ 15#4
      ∧ (0xEE110F31#32).extractLsb' 24 8 = 238#8 := by decide

theorem witness_StepRunsTheDecodedInstruction :
    let s := runnable 0x131#32
    s.schedule = [] ∧ s.nsHold = false ∧ secureFetchStopped s = false ∧ pcAligned s.isa s.pc = true
      ∧ (memReadBytes s.mem s.pc 4).toOption = some [0x11#8, 0x2F#8, 0x11#8, 0xEE#8]
      ∧ decode s.isa s.params.instrBigEndian [0x11#8, 0x2F#8, 0x11#8, 0xEE#8] = .ok (.mrcScrA32 14#4 2#4, [])
      ∧ regIn 2 (step s) = some 0x131#32 := by decide

theorem witness_PlacedWordRunsNext : decodeWord (tableIsa 0x0E110F11#32) 0x0E110F11#32 = .ok (.mrcScrA32 0#4 0#4) := by decide

theorem witness_MisalignedPcIsRefused :
    let s := { runnable 0#32 with pc := 2#32 }
    s.schedule = [] ∧ s.nsHold = false ∧ secureFetchStopped s = false ∧ s.isa = .a32 ∧ s.pc.toNat % 4 ≠ 0
      ∧ refusalOf (step s) = some .misalignedPc ∧ refusalOf (step { s with isa := .t32, pc := 1#32 }) = some .misalignedPc := by
  decide

/-- For ReadOfScrCompletes, WriteOfScrCompletes, NsIsHeldUnderTge (with HCR.TGE set in Secure SVC, NS 0 and `x[1]` with bit 0 set). -/
theorem witness_CanAccessScr :
    (mach allFeat { secureSvc with hcrTge := true } 0#32 14 0x31#32 0#32).CanAccessScr
      ∧ passes (.mcrScrA32 14#4 14#4) (mach allFeat { secureSvc with hcrTge := true } 0#32 14 0x31#32 0#32) = true
      ∧ passes (.mcrScrT32 14#4) (mach allFeat { secureSvc with hcrTge := true } 0#32 14 0x31#32 0#32) = true
      ∧ (14#4).toNat < 15 :=
  ⟨⟨rfl, rfl⟩, rfl, rfl, by decide⟩

/-- For AccessOutcomesFollowThePriorityOrder and BelowEl3NothingIsReadOrWritten, by level. -/
theorem witness_AccessOutcomesFollowThePriorityOrder :
    passes (.mrcScrT32 0#4) (mach allFeat (nsAt .el1) 0#32 0 0#32 0#32) = true
      ∧ faultOf (exec (.mrcScrT32 0#4) (mach allFeat (nsAt .el0) 0#32 0 0#32 0#32)) = some (.undefined .notSaid)
      ∧ faultOf (exec (.mcrScrT32 0#4) (mach allFeat (nsAt .el2) 0#32 0 0#32 0#32)) = some (.undefined .notSaid)
      ∧ faultOf (exec (.mcrScrA32 14#4 0#4) (mach allFeat { nsEl1 with el2Enabled := true, hstrT1 := true } 1#32 0 0#32 0#32))
          = some (.hypTrap 3) := by decide

theorem witness_AbsentScrIsUndefined :
    faultOf (exec (.mrcScrA32 14#4 0#4) (mach { allFeat with haveAA32EL3 := false } monitor 0#32 0 0#32 0#32))
        = some (.undefined .notSaid)
      ∧ ({ allFeat with haveAA32EL3 := false } : Params).haveAA32EL3 = false ∧ (0#4 : BitVec 4) ≠ 15#4 := by decide

theorem witness_AccessFromEl1UnderAArch32 :
    let s := mach allFeat { nsEl1 with el2Enabled := true, hstrT1 := true } 1#32 0 0#32 0#32
    s.env.el = .el1 ∧ s.env.el3Aarch32 = true ∧ s.env.el2Aarch32 = true
      ∧ faultOf (exec (.mrcScrT32 0#4) s) = some (.hypTrap 3) := by decide

theorem witness_FailedConditionDoesNothingOrStops :
    passes (.mrcScrA32 0#4 2#4) (mach allFeat { monitor with condPassed := false } 0#32 0 0#32 0#32) = false
      ∧ passes (.mrcScrT32 2#4) (mach allFeat { nsEl1 with condPassed := false } 0#32 0 0#32 0#32) = false
      ∧ (Instr.mrcScrA32 0#4 2#4).wellFormed = true := by decide

/-- For WritingBackWhatWasReadChangesNothing, and for the frames of MRC and MCR: both instructions have a next state, in turn. -/
theorem witness_WritingBackWhatWasReadChangesNothing :
    ∃ s1 s2, exec (.mrcScrA32 14#4 1#4) (runnable 0x131#32) = .next s1 ∧ exec (.mcrScrA32 14#4 1#4) s1 = .next s2
      ∧ storable (runnable 0x131#32).params (runnable 0x131#32).scr = true ∧ (runnable 0x131#32).CanAccessScr :=
  ⟨_, _, rfl, rfl, by decide, rfl, rfl⟩

/-- An MCR, a ContextSync and a TlbInvalidate, and a state that still can read SCR. -/
theorem witness_ReadAfterWriteSeesTheWrite :
    ∃ s1 s2, exec (.mcrScrA32 14#4 1#4)
        { runnable 0#32 with schedule := [.env .contextSync, .env .tlbInvalidate] } = .next s1
      ∧ 2 ≤ s1.schedule.length ∧ (∀ x ∈ s1.schedule.take 2, Turn.quiet x = true)
      ∧ Host.Core.run Sys2Proof.core 2 s1 = .next s2 ∧ s2.CanAccessScr ∧ passes (.mrcScrA32 14#4 2#4) s2 = true :=
  ⟨_, _, rfl, by decide, by decide, rfl, ⟨rfl, rfl⟩, rfl⟩

/-- The MCR at address 4 of `runnable` changes SCR. -/
theorem witness_OnlyMcrAndResetChangeScr :
    ∃ t, step { runnable 0x8#32 with pc := 4#32 } = .next t ∧ t.scr ≠ (runnable 0x8#32).scr := ⟨_, rfl, by decide⟩

/-- For EveryStepKeepsTheInvariant, NoStepWritesMemory, ParametersNeverChange and TlbKeepsSifValues: a step of a state that meets the
invariant. -/
theorem witness_EveryStepKeepsTheInvariant :
    scrOf (step (runnable 0x131#32)) = some 0x131#32 ∧ (runnable 0x131#32).Inv
      ∧ (takeTurn (runnable 0x131#32)).1 = .pe :=
  ⟨by decide, ⟨by decide, nofun, nofun, by decide⟩, by decide⟩

theorem witness_ResetMeetsTheInvariant : Memory.wf (runnable 0#32).mem = true := by decide

/-- For the statements about one turn of the environment. -/
theorem witness_EnvironmentTurns :
    ({ runnable 0x200#32 with schedule := [.env (.warmReset Launch.atReset)] } : State).schedule
        = .env (.warmReset Launch.atReset) :: []
      ∧ scrOf (step { runnable 0x200#32 with schedule := [.env (.warmReset Launch.atReset)] }) = some 0#32
      ∧ scrOf (step { runnable 0x200#32 with schedule := [.env .contextSync] }) = some 0x200#32
      ∧ scrOf (step { runnable 0x200#32 with schedule := [.env .tlbInvalidate] }) = some 0x200#32 := by decide

/-- Z4 to Z6 with every exception pending and none masked: each is taken, to its own mode. -/
theorem witness_AfterResetNothingIsControlled :
    let t := (runnable 0xB3FF#32).warmReset { Launch.atReset with env := pending secureSvc }
    live (runnable 0xB3FF#32).params (pending secureSvc) = true ∧ (pending secureSvc).el ≠ .el0
      ∧ faultOf (takeAsync .irq t) = some (.taken .irq .irqMode) ∧ faultOf (takeAsync .fiq t) = some (.taken .fiq .fiqMode)
      ∧ faultOf (takeAsync .externalAbort t) = some (.taken .externalAbort .abortMode) := by decide

/-- A scheduled attempt that completes, one that stops, and a scheduled exception that is taken. -/
theorem witness_ScheduledTurnsRunTheirOperation :
    let s := { mach allFeat (pending nsEl1) 0x3001#32 0 0#32 0x100#32 with schedule := [.attempt .hvc 4, .pe] }
    s.schedule = .attempt .hvc 4 :: [.pe] ∧ s.nsHold = false ∧ secureFetchStopped s = false
      ∧ faultOf (step s) = some (.undefined .fromPl1ToPl1)
      ∧ pcOf (step { s with schedule := [.attempt (.wfe none) 2], env := { s.env with wakeupPending := true } })
          = some 0x102#32
      ∧ faultOf (step { s with schedule := [.takeAsync .irq] }) = some (.taken .irq .irqMode) := by decide

theorem witness_EnvChangeSetsTheEnvironment :
    ∃ t, step { runnable 0x131#32 with schedule := [.env (.envChange nsEl1), .pe] } = .next t ∧ t.env = nsEl1
      ∧ t.scr = 0x131#32 ∧ t.schedule = [.pe] := ⟨_, rfl, rfl, rfl, rfl⟩

/-- For SyncedReadsSeeTheirBitOfScr and NsDecidesTheSecurityState: a synced state in each mode, with NS 0 and NS 1. -/
theorem witness_Synced :
    (runnable 0xB3FF#32).Synced ∧ (runnable 1#32).isSecure = true
      ∧ (mach allFeat nsEl1 1#32 0 0#32 0#32).isSecure = false ∧ (mach allFeat secureSvc 0#32 0 0#32 0#32).isSecure = true :=
  ⟨.inl rfl, by decide, by decide, by decide⟩

/-- For HvcIsEnabledByHce, SmcIsDisabledByScd and ErrorRecordsAreTrappedByTerr, whose clauses test_hvc, test_smc and the tests of error
records run: the states of H6, S4 and T1. -/
theorem witness_ControlledInstructions :
    let h := mach allFeat nsEl1 1#32 0 0#32 0#32
    let m := mach allFeat nsEl1 0x81#32 0 0#32 0#32
    let r := mach allFeat nsEl1 0x8001#32 0 0#32 0#32
    haveEL2 h.params = true ∧ h.env.el = .el1 ∧ h.isSecure = false ∧ live h.params h.env = true ∧ h.eff .verdict .hce = false
      ∧ live m.params m.env = true ∧ m.eff .verdict .scd = true ∧ m.isSecure = false
      ∧ live r.params r.env = true ∧ r.params.haveRas = true ∧ r.eff .verdict .terr = true ∧ r.env.modeIsMonitor = false
      ∧ r.env.errOtherException = false
      ∧ refusalOf (attempt (.errAccess .mrrc .erxaddr) 4 { r with env := { r.env with el3Aarch32 := false } })
          = some (.proceeds (.errAccess .mrrc .erxaddr)) := by decide

/-- Q1, Q2 and an IRQ that is masked. -/
theorem witness_IrqIsRoutedByIrq :
    let s := mach allFeat (pending monitor) 0#32 0 0#32 0#32
    let t := mach allFeat (pending monitor) 2#32 0 0#32 0#32
    let u := mach allFeat { pending monitor with irqMasked := true } 2#32 0 0#32 0#32
    live s.params s.env = true ∧ s.env.irqPending = true ∧ s.env.irqMasked = false ∧ s.eff .routing .irq = false
      ∧ live t.params t.env = true ∧ t.env.irqPending = true ∧ t.env.irqMasked = false ∧ t.eff .routing .irq = true
      ∧ live u.params u.env = true ∧ u.env.irqPending = true ∧ pcOf (takeAsync .irq u) = some 0#32 := by decide

/-- A completed write with lagging writes, and one with immediate ones. -/
theorem witness_WritesReachIndirectReadsByTheirSet :
    (∃ t, exec (.mcrScrT32 1#4) { runnable 0x2000#32 with params := { allFeat with scrWriteSync := .lagging } } = .next t)
      ∧ (runnable 0#32).params.scrWriteSync = .immediate ∧ fieldPresent (runnable 0#32).params .terr = true :=
  ⟨⟨_, rfl⟩, rfl, rfl⟩

theorem witness_SecureFetchIsDeniedBySif :
    let s := fetchState secureSvc 0x200#32
    s.schedule = [] ∧ s.nsHold = false ∧ s.params.haveAA32EL3 = true ∧ s.env.el3Aarch32 = true ∧ s.isSecure = true
      ∧ s.env.fetchFromNonsecure = true ∧ s.sifSet.mem false = false := by decide

/-- nET and a held RES0 bit differ. -/
theorem witness_Res0BitsAndNetNeverAct :
    0x4041#32 &&& (namedMask allFeat &&& 0xFFFFFFBF#32) = (runnable 1#32).scr &&& (namedMask allFeat &&& 0xFFFFFFBF#32)
      ∧ List.Forall₂ (fun a b : Word => a &&& (namedMask allFeat &&& 0xFFFFFFBF#32) = b &&& (namedMask allFeat &&& 0xFFFFFFBF#32))
          [] (runnable 1#32).effEarlier :=
  ⟨by decide, .nil⟩

theorem witness_TrappedWaitsNeverSleep :
    let s := mach allFeat { nsEl1 with wakeupPending := true } 0x3001#32 0 0#32 0#32
    s.params.haveAA32EL3 = true ∧ s.env.el3Aarch32 = true ∧ conditionPassed s.env none = true ∧ s.env.wfeTrappedLower = false
      ∧ s.env.wfiTrappedLower = false ∧ s.eff .verdict .twe = true ∧ s.eff .verdict .twi = true ∧ s.env.modeIsMonitor = false
      ∧ s.env.wakeupPending = true := by decide

/-- For FiqIsRoutedByFiqAndMaskedByFw and AbortIsRoutedByEaAndMaskedByAw: the case in which PSTATE.F and PSTATE.A do not mask
(K6, L6), the one in which they do (K10, L10), and one another control decides (K3). -/
theorem witness_Masking :
    let s := mach allFeat (pending nsEl1) 0xD#32 0 0#32 0#32
    let t := mach allFeat (pending nsEl1) 0x3D#32 0 0#32 0#32
    let u := mach allFeat { pending nsEl1 with hcrFmo := true, hcrAmo := true, fiqMaskedOther := true } 0xD#32 0 0#32 0#32
    live s.params s.env = true ∧ s.eff .masking .fiq = true ∧ s.eff .masking .ea = true ∧ s.eff .masking .fw = false
      ∧ s.eff .routing .fiq = true ∧ s.eff .routing .ea = true ∧ s.isSecure = false
      ∧ s.env.pstateF = true ∧ faultOf (takeAsync .fiq s) = some (.taken .fiq .monitorMode)
      ∧ faultOf (takeAsync .externalAbort s) = some (.taken .externalAbort .monitorMode)
      ∧ pcOf (takeAsync .fiq t) = some 0#32 ∧ pcOf (takeAsync .externalAbort t) = some 0#32
      ∧ pcOf (takeAsync .fiq u) = some 0#32
      ∧ faultOf (takeAsync .externalAbort u) = some (.taken .externalAbort .monitorMode) := by decide

/-- W15 and D24: an MCR in Secure SVC that sets NS completes and holds the PE, through a ContextSync and until a Warm reset; one that
R133 holds back, and one in Monitor mode, do not. -/
theorem witness_NsChangedOutsideMonitorStopsThePe :
    (∃ t, exec (.mcrScrA32 14#4 1#4) (mach allFeat secureSvc 0#32 1 0x31#32 0#32) = .next t ∧ t.scr.getLsbD 0 ≠ false
      ∧ t.pc = 4#32 ∧ t.nsHold = true ∧ refusalOf (step t) = some .nsChangedOutsideMonitor
      ∧ refusalOf (step { t with schedule := [.takeAsync .irq] }) = some .nsChangedOutsideMonitor
      ∧ pcOf (step { t with schedule := [.env .contextSync] }) = some 4#32)
    ∧ (∃ t, exec (.mcrScrA32 14#4 1#4) (mach allFeat { secureSvc with hcrTge := true } 0#32 1 0x31#32 0#32) = .next t
      ∧ t.nsHold = false)
    ∧ ∃ t, exec (.mcrScrA32 14#4 1#4) (mach allFeat monitor 0#32 1 0x31#32 0#32) = .next t ∧ t.nsHold = false :=
  ⟨⟨_, rfl, by decide, by decide, by decide, by decide, by decide, by decide⟩, ⟨_, rfl, by decide⟩, ⟨_, rfl, by decide⟩⟩

end Sys2Proof.Tests
end

namespace Sys2Proof.Machine

/-! ## Which turn a step runs -/

theorem takeTurn_of_nil {s : State} (h : s.schedule = []) : takeTurn s = (.pe, s) := by
  simp [takeTurn, h]

theorem takeTurn_of_cons {s : State} {x : Turn} {later : List Turn} (h : s.schedule = x :: later) :
    takeTurn s = (x, { s with schedule := later }) := by
  simp [takeTurn, h]

/-- A step answers what its turn answers, with the draws' counter moved on where that is a next state. -/
theorem step_outcomes_of_runTurn {s u : State} {x : Turn} {r : Result} (hx : takeTurn s = (x, u))
    (hr : runTurn x u = r) :
    (∀ t, r = .next t → step s = .next { t with draws := t.draws + 1 })
      ∧ (∀ f, r = .fault f → step s = .fault f)
      ∧ (∀ q, r = .refused q → step s = .refused q) := by
  have h : step s = afterStep r := by simp [step, hx, hr]
  refine ⟨?next, ?fault, ?refused⟩
  case next => rintro t rfl; exact h
  case fault => rintro f rfl; exact h
  case refused => rintro q rfl; exact h

/-! ## When nothing stops a turn -/

theorem peTurn_of_not_held {s : State} (k : State → Result) (h : s.nsHold = false) : peTurn s k = k s := by
  simp [peTurn, h]

theorem fetched_of_not_stopped {s : State} (k : State → Result) (h : secureFetchStopped s = false) :
    fetched s k = k s := by
  simp [fetched, h]

theorem withInstrAt_of_decoded {s : State} {bs rest : List Byte} {i : Instr} (k : Instr → Result)
    (hpc : pcAligned s.isa s.pc = true) (hbs : memReadBytes s.mem s.pc 4 = .ok bs)
    (hi : decode s.isa s.params.instrBigEndian bs = .ok (i, rest)) : withInstrAt s k = k i := by
  simp [withInstrAt, hpc, hbs, hi]

theorem runTurn_pe_of_decoded {s : State} {bs rest : List Byte} {i : Instr}
    (hn : s.nsHold = false) (hf : secureFetchStopped s = false) (hpc : pcAligned s.isa s.pc = true)
    (hbs : memReadBytes s.mem s.pc 4 = .ok bs) (hi : decode s.isa s.params.instrBigEndian bs = .ok (i, rest)) :
    runTurn .pe s = exec i s := by
  rw [runTurn, peStep, peTurn_of_not_held _ hn, fetched_of_not_stopped _ hf, withInstrAt_of_decoded _ hpc hbs hi]

theorem runTurn_attempt_of_not_stopped {s : State} (i : UnencodedInsn) (len : Nat)
    (hn : s.nsHold = false) (hf : secureFetchStopped s = false) : runTurn (.attempt i len) s = attempt i len s := by
  rw [runTurn, peTurn_of_not_held _ hn, fetched_of_not_stopped _ hf]

theorem runTurn_takeAsync_of_not_held {s : State} (k : AsyncKind) (hn : s.nsHold = false) :
    runTurn (.takeAsync k) s = takeAsync k s := by
  rw [runTurn, peTurn_of_not_held _ hn]

/-! ## What a run keeps -/

/-- A run of `n + 1` steps that answers a next state is one step and then a run of `n`. -/
theorem run_succ_next {M : Host.Core} {n : Nat} {s t : M.State} (h : M.run (n + 1) s = .next t) :
    ∃ u, M.step s = .next u ∧ M.run n u = .next t := by
  rw [Host.Core.run] at h
  split at h
  next u hu => exact ⟨u, hu, h⟩
  · cases h
  · cases h

/-- What every step keeps, every run keeps. -/
theorem run_keeps {M : Host.Core} {α : Type} (f : M.State → α) (hstep : ∀ s t, M.step s = .next t → f t = f s) (n : Nat) :
    ∀ s t, M.run n s = .next t → f t = f s := by
  induction n with
  | zero => rintro s t ⟨⟩; rfl
  | succ n ih =>
    intro s t h
    obtain ⟨u, hu, ht⟩ := run_succ_next h
    exact (ih u t ht).trans (hstep s u hu)

/-! ## The parameters (R6) -/

@[simp] theorem applyEnvEvent_params (e : EnvEvent) (s : State) : (applyEnvEvent e s).params = s.params := by
  cases e <;> rfl

theorem exec_params {i : Instr} {s t : State} (h : exec i s = .next t) : t.params = s.params := by
  obtain rfl | ⟨-, r, rfl | rfl⟩ := exec_next h <;> rfl

theorem runTurn_params {x : Turn} {s t : State} (h : runTurn x s = .next t) : t.params = s.params := by
  obtain ⟨-, i, bs, rest, -, -, hx⟩ | ⟨i, len, -, rfl⟩ | ⟨k, -, rfl⟩ | ⟨e, -, rfl⟩ := runTurn_next h
  · exact exec_params hx
  · rfl
  · rfl
  · exact applyEnvEvent_params e s

theorem step_params (s t : State) (h : step s = .next t) : t.params = s.params := by
  obtain ⟨u, hu, rfl⟩ := step_next h
  have hturn : (takeTurn s).2.params = s.params := by rw [takeTurn_snd]
  exact (runTurn_params hu).trans hturn

/-! ## The obligations -/

/-- Settles O24: every step keeps the parameters, so every run does. -/
theorem parametersNeverChange : Obligations.ParametersNeverChange :=
  run_keeps (M := Sys2Proof.core) State.params step_params

/-- Settles O6: nothing the turn is gated by stops it, so the step is `exec` of the decoded instruction. -/
theorem stepRunsTheDecodedInstruction : Obligations.StepRunsTheDecodedInstruction := by
  intro s u bs rest i hturn hn hf hpc hbs hi
  obtain ⟨hs, rfl⟩ | ⟨later, hs, rfl⟩ := hturn
  · exact step_outcomes_of_runTurn (takeTurn_of_nil hs) (runTurn_pe_of_decoded hn hf hpc hbs hi)
  · exact step_outcomes_of_runTurn (takeTurn_of_cons hs) (runTurn_pe_of_decoded hn hf hpc hbs hi)

/-- Settles O47: a turn that is not held, and for an attempt whose fetch is not stopped, is its operation. -/
theorem scheduledTurnsRunTheirOperation : Obligations.ScheduledTurnsRunTheirOperation := by
  refine ⟨?attempt, ?takeAsync⟩
  case attempt =>
    intro s i len later hs hn hf
    exact step_outcomes_of_runTurn (takeTurn_of_cons hs) (runTurn_attempt_of_not_stopped i len hn hf)
  case takeAsync =>
    intro s k later hs hn
    exact step_outcomes_of_runTurn (takeTurn_of_cons hs) (runTurn_takeAsync_of_not_held k hn)

end Sys2Proof.Machine

namespace Sys2Proof.Machine

/-! ## An instruction of the table as one access -/

/-- What an access of each direction transfers (R130, R131). -/
def transferOf : Dir → Fin 15 → State → State
  | .read => readScr
  | .write => writeScrFrom

/-- The four instructions are one frame over their condition, their register number and their direction. -/
theorem exec_eq_scrAccess (i : Instr) (s : State) :
    exec i s = scrAccess (instrCond i) (instrRt i) (transferOf (instrDir i)) s := by
  cases i <;> rfl

theorem accessCheck_eq_allowed (s : State) : s.accessCheck = .allowed ↔ s.CanAccessScr :=
  scrAccessCheck_allowed s.params s.env s.isSecure

/-- An instruction of the table changes SCR only by a write that the access check allowed. -/
theorem exec_next_scr_ne {i : Instr} {s t : State} (h : exec i s = .next t) (hne : t.scr ≠ s.scr) :
    s.CanAccessScr ∧ instrDir i = .write := by
  rw [exec_eq_scrAccess] at h
  obtain ⟨ha, -, r, -, rfl⟩ | ⟨-, rfl⟩ := scrAccess_next h
  · refine ⟨(accessCheck_eq_allowed s).1 ha, ?_⟩
    cases hd : instrDir i with
    | write => rfl
    | read => rw [hd] at hne; exact absurd rfl hne
  · exact absurd rfl hne

/-! ## What changes SCR (R22) -/

theorem applyEnvEvent_scr (e : EnvEvent) (s : State) (he : (Turn.env e).isReset = false) :
    (applyEnvEvent e s).scr = s.scr := by
  cases e with
  | contextSync | tlbInvalidate | envChange e' => rfl
  | warmReset l => cases he

/-- A turn that changes SCR is a Warm reset, or the PE's with an MCR at `pc` that may access SCR. -/
theorem runTurn_next_scr_ne {x : Turn} {s t : State} (h : runTurn x s = .next t) (hne : t.scr ≠ s.scr) :
    x.isReset = true
      ∨ (x = .pe ∧ s.CanAccessScr ∧ ∃ bs rest i, memReadBytes s.mem s.pc 4 = .ok bs
          ∧ decode s.isa s.params.instrBigEndian bs = .ok (i, rest) ∧ instrDir i = .write) := by
  obtain ⟨hpe, i, bs, rest, hbs, hi, hx⟩ | ⟨i, len, -, rfl⟩ | ⟨k, -, rfl⟩ | ⟨e, rfl, rfl⟩ := runTurn_next h
  · obtain ⟨ha, hd⟩ := exec_next_scr_ne hx hne
    exact .inr ⟨hpe, ha, bs, rest, i, hbs, hi, hd⟩
  · exact absurd rfl hne
  · exact absurd rfl hne
  · cases hr : (Turn.env e).isReset with
    | true => exact .inl rfl
    | false => exact absurd (applyEnvEvent_scr e s hr) hne

/-- Settles O21: a step is its turn with the schedule and the draws' counter moved on, and neither is SCR. -/
theorem onlyMcrAndResetChangeScr : Obligations.OnlyMcrAndResetChangeScr := by
  intro s t h hne
  obtain ⟨u, hu, rfl⟩ := step_next h
  have hturn := runTurn_next_scr_ne hu
  rw [takeTurn_snd] at hturn
  exact hturn hne

/-! ## The invariant (R40, R3) -/

/-- The invariant speaks of the parameters, SCR, its history, the TLB-held SIF values and memory alone. -/
theorem State.Inv.of_eq {s t : State} (hs : s.Inv) (hp : t.params = s.params) (hscr : t.scr = s.scr)
    (he : t.effEarlier = s.effEarlier) (hsif : t.tlbSif = s.tlbSif) (hm : t.mem = s.mem) : t.Inv := by
  obtain ⟨hstor, hearl, habs, hwf⟩ := hs
  constructor <;> simpa only [hp, hscr, he, hsif, hm]

/-- Where SCR is absent, no indirect read of a field may see 1. -/
theorem State.Inv.effSet_has1_of_absent {s : State} (hs : s.Inv) (ha : s.params.haveAA32EL3 = false) (f : Field) :
    (s.effSet f).has1 = false := by
  obtain ⟨hscr, hearl, -⟩ := hs.absent_is_zero ha
  have hzero : ∀ v ∈ s.effCandidates, v = 0#32 := by
    intro v hv
    unfold State.effCandidates at hv
    split at hv
    next => rw [List.mem_singleton.1 hv, hscr]
    next =>
      obtain rfl | hv := List.mem_cons.1 hv
      · exact hscr
      · exact hearl v hv
  refine List.any_eq_false.2 fun v hv => ?_
  simp [hzero v hv, fieldBit]

/-- Where SCR is absent, no fetch may see SIF 1. -/
theorem State.Inv.sifSet_has1_of_absent {s : State} (hs : s.Inv) (ha : s.params.haveAA32EL3 = false) :
    s.sifSet.has1 = false := by
  obtain ⟨-, -, htlb⟩ := hs.absent_is_zero ha
  simp [State.sifSet, BitSet.union, htlb, hs.effSet_has1_of_absent ha]

theorem State.launch_inv (p : Params) {m : Memory} (sched : List Turn) (d : Nat) (l : Launch) (hm : Memory.wf m = true) :
    (State.launch p m sched d l).Inv where
  scr_storable := storable_zero p
  earlier_storable := nofun
  absent_is_zero _ := ⟨rfl, nofun, rfl⟩
  mem_wf := hm

theorem writeScrFrom_inv {s : State} (hs : s.Inv) (hp : s.params.haveAA32EL3 = true) (r : Fin 15) :
    (writeScrFrom r s).Inv where
  scr_storable := storable_storedValue s.params _
  earlier_storable := List.forall_mem_cons.2 ⟨hs.scr_storable, hs.earlier_storable⟩
  absent_is_zero ha := absurd (hp.symm.trans ha) (by decide)
  mem_wf := hs.mem_wf

theorem contextSync_inv {s : State} (hs : s.Inv) : s.contextSync.Inv where
  scr_storable := hs.scr_storable
  earlier_storable := nofun
  absent_is_zero ha := ⟨(hs.absent_is_zero ha).1, nofun, hs.sifSet_has1_of_absent ha⟩
  mem_wf := hs.mem_wf

theorem tlbInvalidate_inv {s : State} (hs : s.Inv) : s.tlbInvalidate.Inv where
  scr_storable := hs.scr_storable
  earlier_storable := hs.earlier_storable
  absent_is_zero ha :=
    have ⟨hscr, hearl, _⟩ := hs.absent_is_zero ha
    ⟨hscr, hearl, hs.effSet_has1_of_absent ha .sif⟩
  mem_wf := hs.mem_wf

theorem applyEnvEvent_inv {s : State} (hs : s.Inv) (e : EnvEvent) : (applyEnvEvent e s).Inv := by
  cases e with
  | contextSync => exact contextSync_inv hs
  | tlbInvalidate => exact tlbInvalidate_inv hs
  | warmReset l => exact State.launch_inv s.params s.schedule s.draws l hs.mem_wf
  | envChange e' => exact hs.of_eq rfl rfl rfl rfl rfl

theorem exec_inv {i : Instr} {s t : State} (hs : s.Inv) (h : exec i s = .next t) : t.Inv := by
  obtain rfl | ⟨ha, r, rfl | rfl⟩ := exec_next h
  · exact hs.of_eq rfl rfl rfl rfl rfl
  · exact hs.of_eq rfl rfl rfl rfl rfl
  · exact (writeScrFrom_inv hs ((accessCheck_eq_allowed s).1 ha).1 r).of_eq rfl rfl rfl rfl rfl

theorem runTurn_inv {x : Turn} {s t : State} (hs : s.Inv) (h : runTurn x s = .next t) : t.Inv := by
  obtain ⟨-, i, bs, rest, -, -, hx⟩ | ⟨i, len, -, rfl⟩ | ⟨k, -, rfl⟩ | ⟨e, -, rfl⟩ := runTurn_next h
  · exact exec_inv hs hx
  · exact hs.of_eq rfl rfl rfl rfl rfl
  · exact hs
  · exact applyEnvEvent_inv hs e

/-- Settles O25: the turn keeps the invariant, and the schedule and the draws' counter are not in it. -/
theorem everyStepKeepsTheInvariant : Obligations.EveryStepKeepsTheInvariant := by
  intro s t hs h
  obtain ⟨u, hu, rfl⟩ := step_next h
  have hturn : (takeTurn s).2.Inv := by
    rw [takeTurn_snd]
    exact hs.of_eq rfl rfl rfl rfl rfl
  exact (runTurn_inv hturn hu).of_eq rfl rfl rfl rfl rfl

/-- Settles O26: SCR, its history and the TLB-held SIF values are cleared, and memory is the one given. -/
theorem resetMeetsTheInvariant : Obligations.ResetMeetsTheInvariant :=
  ⟨fun p _ sched d l hm => State.launch_inv p sched d l hm,
    State.launch_inv Config.resetParams [] 0 Launch.atReset reset_mem_wf⟩

/-! ## Away from EL3, and a change of the environment -/

/-- Settles O22: the access check allows nothing away from EL3, so a next state is the one a failed condition leaves. -/
theorem belowEl3NothingIsReadOrWritten : Obligations.BelowEl3NothingIsReadOrWritten := by
  intro s i hel
  cases h : exec i s with
  | fault f => exact .inr (.inl ⟨f, rfl⟩)
  | refused r => exact .inr (.inr ⟨r, rfl⟩)
  | next t =>
    obtain rfl | ⟨ha, -⟩ := exec_next h
    · exact .inl rfl
    · exact absurd ((accessCheck_eq_allowed s).1 ha).2 hel

/-- Settles O48: the turn is the update of the environment alone. -/
theorem envChangeSetsTheEnvironment : Obligations.EnvChangeSetsTheEnvironment := by
  intro s e later hs
  obtain ⟨hnext, -, -⟩ := step_outcomes_of_runTurn (takeTurn_of_cons hs) rfl
  exact ⟨_, hnext _ rfl, rfl, rfl, rfl, rfl, rfl, rfl, rfl, rfl, rfl, rfl, fun _ => rfl⟩

/-! ## Indirect reads of a settled SCR (R51, R50) -/

theorem State.Synced.eq_scr_of_mem {s : State} (h : s.Synced) {v : Word} (hv : v ∈ s.effCandidates) : v = s.scr := by
  obtain hi | he := h
  · simpa [State.effCandidates, hi] using hv
  · unfold State.effCandidates at hv
    split at hv
    · exact List.mem_singleton.1 hv
    · rw [he] at hv
      exact List.mem_singleton.1 hv

/-- Once settled, every rule sees a field's own bit, and 0 where its feature is absent. -/
theorem State.Synced.eff_eq {s : State} (h : s.Synced) (r : Reader) (f : Field) :
    s.eff r f = (fieldPresent s.params f && fieldBit f s.scr) :=
  s.eff_of_forall r f _ fun _ hv => by rw [h.eq_scr_of_mem hv]

/-- Settles O29: the bit of each field is R21's, and three of the thirteen are absent without their feature. -/
theorem syncedReadsSeeTheirBitOfScr : Obligations.SyncedReadsSeeTheirBitOfScr := by
  intro s r hs
  simp [hs.eff_eq, fieldPresent, fieldBit, fieldPos, haveEL2]

theorem isSecure_of_live {s : State} (h : live s.params s.env = true) :
    s.isSecure = (s.env.modeIsMonitor || !s.eff .securityState .ns) := by
  simp [State.isSecure, h]

/-- Settles O34: the Security state is Monitor mode's or what the read of NS says, and a settled read is SCR.NS. -/
theorem nsDecidesTheSecurityState : Obligations.NsDecidesTheSecurityState := by
  intro s hp he
  have hsec := isSecure_of_live (s := s) (by simp [live, hp, he])
  refine ⟨fun hm => ?_, fun hm hs => ?_, fun hm => ?_⟩
  · simp [hsec, hm]
  · simp [hsec, hm, hs.eff_eq, fieldPresent, fieldBit, fieldPos]
  · simp [hsec, hm]

end Sys2Proof.Machine

namespace Sys2Proof.Machine

/-! ## What each operation's outcome depends on -/

theorem attempt_eq_next_advancePc (i : UnencodedInsn) (len : Nat) (s : State) :
    attempt i len s = .next (s.advancePc len) ↔
      s.verdict i = .nop ∨ (s.verdict i = .proceeds ∧ s.completesAtOnce i = true) := by
  unfold attempt
  cases s.verdict i <;> simp [takeException]

/-- Whether an attempt stops in a fault, and in which, its verdict alone decides. -/
theorem attempt_fault_congr {i : UnencodedInsn} {s t : State} (hv : t.verdict i = s.verdict i) (len : Nat) (f : Fault) :
    attempt i len t = .fault f ↔ attempt i len s = .fault f := by
  unfold attempt
  rw [hv]
  cases s.verdict i with
  | proceeds => cases t.completesAtOnce i <;> cases s.completesAtOnce i <;> simp
  | monitorTrap c | undefined w | nop | lowerException | noSuchState => simp [takeException]

theorem takeAsync_eq_fault (k : AsyncKind) (s : State) (f : Fault) :
    takeAsync k s = .fault f ↔
      asyncPending s.env k = true ∧ live s.params s.env = true ∧ s.asyncMasked k = false
        ∧ f = .taken k (asyncTarget k (s.eff .routing (routeField k))) := by
  unfold takeAsync
  cases asyncPending s.env k with
  | false => simp
  | true =>
    cases live s.params s.env with
    | false => simp
    | true => cases s.asyncMasked k <;> simp [takeException, eq_comm]

theorem condFail_eq_fault (s : State) (f : Fault) :
    condFail s = .fault f ↔ s.accessCheck = .stop f ∧ Config.free s.draws .condFail = false := by
  unfold condFail
  cases s.accessCheck with
  | allowed => simp
  | stop g => cases Config.free s.draws .condFail <;> simp [takeException]

/-- An access faults as the access check says, where its operands are admitted and its condition passes or the draw of a failed
condition (R136) stops it all the same. -/
theorem scrAccess_eq_fault (cond : Option (BitVec 4)) (rt : BitVec 4) (tr : Fin 15 → State → State) (s : State) (f : Fault) :
    scrAccess cond rt tr s = .fault f ↔
      (regOf rt).isSome = true ∧ cond ≠ some 0b1111#4 ∧ s.accessCheck = .stop f
        ∧ (conditionPassed s.env cond = true ∨ Config.free s.draws .condFail = false) := by
  unfold scrAccess
  cases regOf rt with
  | none => simp
  | some r =>
    by_cases hc : cond = some 0b1111#4
    · simp [hc]
    · cases hp : conditionPassed s.env cond with
      | false => simp [hc, condFail_eq_fault]
      | true => cases s.accessCheck <;> simp [hc, takeException]

/-! ## Bits of SCR that act -/

/-- The bits of SCR that some rule acts on: the named ones (R40) but nET (R108). -/
def actingMask (p : Params) : Word := namedMask p &&& 0xFFFFFFBF#32

theorem actingMask_getLsbD_fieldPos {p : Params} {f : Field} (hp : fieldPresent p f = true) (hf : f ≠ .net) :
    (actingMask p).getLsbD (fieldPos f) = true := by
  cases f with
  | net => exact absurd rfl hf
  | terr | hce =>
    simp only [fieldPresent] at hp
    simp [actingMask, namedMask, alwaysNamedMask, fieldPos, hp]
  | twe | twi | sif | scd | aw | fw | ea | fiq | irq | ns =>
    simp [actingMask, namedMask, alwaysNamedMask, fieldPos]

theorem fieldBit_eq_of_acting_eq {p : Params} {f : Field} (hp : fieldPresent p f = true) (hf : f ≠ .net) {a b : Word}
    (h : a &&& actingMask p = b &&& actingMask p) : fieldBit f a = fieldBit f b := by
  have hbit := congrArg (fun w : Word => w.getLsbD (fieldPos f)) h
  simpa [fieldBit, actingMask_getLsbD_fieldPos hp hf] using hbit

/-- The values of a field over one list are those over another, where the two agree on it entry by entry. -/
theorem map_fieldBit_eq_of_acting_eq {p : Params} {f : Field} (hp : fieldPresent p f = true) (hf : f ≠ .net)
    {vs ws : List Word} (h : List.Forall₂ (fun a b => a &&& actingMask p = b &&& actingMask p) vs ws) :
    vs.map (fieldBit f) = ws.map (fieldBit f) := by
  rw [← List.forall₂_eq_eq_eq, List.forall₂_map_left_iff, List.forall₂_map_right_iff]
  exact h.imp fun _ _ => fieldBit_eq_of_acting_eq hp hf

/-- The candidates of a field are a matter of its values over the candidates of SCR_eff alone. -/
theorem effSet_eq_map (s : State) (f : Field) :
    s.effSet f =
      { has0 := (s.effCandidates.map (fieldBit f)).any (!·), has1 := (s.effCandidates.map (fieldBit f)).any id } := by
  simp only [State.effSet, List.any_map]
  rfl

/-! ## States whose rules read the same -/

/-- Two states no rule can tell apart: they agree in what the rules read beside SCR, in every indirect read but that of nET, and
in the SIF values a fetch may see. -/
structure State.ReadsAlike (t s : State) : Prop where
  params_eq : t.params = s.params
  env_eq : t.env = s.env
  draws_eq : t.draws = s.draws
  eff_eq : ∀ r f, f ≠ .net → t.eff r f = s.eff r f
  sifSet_eq : t.sifSet = s.sifSet

section ReadsAlike

variable {s t : State} (h : t.ReadsAlike s)
include h

theorem State.ReadsAlike.isSecure_eq : t.isSecure = s.isSecure := by
  simp only [State.isSecure, h.params_eq, h.env_eq, h.eff_eq .securityState .ns (by decide)]

theorem State.ReadsAlike.wouldSleep_eq : t.wouldSleep = s.wouldSleep := by
  simp only [State.wouldSleep, h.env_eq, h.draws_eq]

theorem State.ReadsAlike.verdict_eq (i : UnencodedInsn) : t.verdict i = s.verdict i := by
  have heff := h.eff_eq .verdict
  cases i <;>
    simp only [State.verdict, h.params_eq, h.env_eq, h.draws_eq, h.isSecure_eq, h.wouldSleep_eq, heff, ne_eq, reduceCtorEq,
      not_false_eq_true]

theorem State.ReadsAlike.completesAtOnce_eq (i : UnencodedInsn) : t.completesAtOnce i = s.completesAtOnce i := by
  cases i <;> simp only [State.completesAtOnce, h.params_eq, h.env_eq, h.wouldSleep_eq]

theorem State.ReadsAlike.asyncMasked_eq (k : AsyncKind) : t.asyncMasked k = s.asyncMasked k := by
  have heff := h.eff_eq .masking
  cases k <;>
    simp only [State.asyncMasked, h.env_eq, h.isSecure_eq, heff, ne_eq, reduceCtorEq, not_false_eq_true]

theorem State.ReadsAlike.accessCheck_eq : t.accessCheck = s.accessCheck := by
  simp only [State.accessCheck, h.params_eq, h.env_eq, h.isSecure_eq]

theorem State.ReadsAlike.secureFetchStopped_eq : secureFetchStopped t = secureFetchStopped s := by
  simp only [secureFetchStopped, State.sifFetch, h.isSecure_eq, h.sifSet_eq, h.env_eq, h.draws_eq]

theorem State.ReadsAlike.attempt_next_iff (i : UnencodedInsn) (len : Nat) :
    attempt i len t = .next (t.advancePc len) ↔ attempt i len s = .next (s.advancePc len) := by
  simp only [attempt_eq_next_advancePc, h.verdict_eq, h.completesAtOnce_eq]

theorem State.ReadsAlike.takeAsync_fault_iff (k : AsyncKind) (f : Fault) :
    takeAsync k t = .fault f ↔ takeAsync k s = .fault f := by
  have hroute := h.eff_eq .routing (routeField k) (by cases k <;> decide)
  simp only [takeAsync_eq_fault, h.params_eq, h.env_eq, h.asyncMasked_eq, hroute]

theorem State.ReadsAlike.exec_fault_iff (i : Instr) (f : Fault) : exec i t = .fault f ↔ exec i s = .fault f := by
  simp only [exec_eq_scrAccess, scrAccess_eq_fault, h.accessCheck_eq, h.env_eq, h.draws_eq]

end ReadsAlike

/-- A field that is present and not nET has the same candidates in two states whose values of SCR agree in the bits that act. -/
theorem effSet_eq_of_acting_eq {s : State} {v : Word} {vs : List Word}
    (hv : v &&& actingMask s.params = s.scr &&& actingMask s.params)
    (hvs : List.Forall₂ (fun a b => a &&& actingMask s.params = b &&& actingMask s.params) vs s.effEarlier)
    {f : Field} (hp : fieldPresent s.params f = true) (hf : f ≠ .net) :
    State.effSet { s with scr := v, effEarlier := vs } f = s.effSet f := by
  rw [effSet_eq_map, effSet_eq_map, map_fieldBit_eq_of_acting_eq hp hf ?_]
  unfold State.effCandidates
  cases s.params.scrWriteSync with
  | immediate => exact .cons hv .nil
  | lagging => exact .cons hv hvs

theorem readsAlike_of_acting_eq {s : State} {v : Word} {vs : List Word}
    (hv : v &&& actingMask s.params = s.scr &&& actingMask s.params)
    (hvs : List.Forall₂ (fun a b => a &&& actingMask s.params = b &&& actingMask s.params) vs s.effEarlier) :
    State.ReadsAlike { s with scr := v, effEarlier := vs } s where
  params_eq := rfl
  env_eq := rfl
  draws_eq := rfl
  eff_eq r f hf := by
    cases hp : fieldPresent s.params f with
    | false => simp only [State.eff, hp, Bool.false_and]
    | true => simp only [State.eff, effSet_eq_of_acting_eq hv hvs hp hf]
  sifSet_eq := by simp only [State.sifSet, effSet_eq_of_acting_eq hv hvs (f := .sif) rfl (by decide)]

/-- Settles O36: the two states read alike, and no outcome depends on more than what the rules read. -/
theorem res0BitsAndNetNeverAct : Obligations.Res0BitsAndNetNeverAct := by
  intro s t v vs ht hv hvs
  have h : t.ReadsAlike s := ht ▸ readsAlike_of_acting_eq hv hvs
  exact ⟨fun i => attempt_fault_congr (h.verdict_eq i), h.attempt_next_iff, h.takeAsync_fault_iff, h.exec_fault_iff,
    h.secureFetchStopped_eq⟩

end Sys2Proof.Machine

namespace Sys2Proof.Machine

/-! ## Instruction memory (R66, R69, log 5) -/

theorem applyEnvEvent_mem (e : EnvEvent) (s : State) : (applyEnvEvent e s).mem = s.mem := by
  cases e <;> rfl

theorem exec_mem {i : Instr} {s t : State} (h : exec i s = .next t) : t.mem = s.mem := by
  obtain rfl | ⟨-, r, rfl | rfl⟩ := exec_next h <;> rfl

theorem runTurn_mem {x : Turn} {s t : State} (h : runTurn x s = .next t) : t.mem = s.mem := by
  obtain ⟨-, i, bs, rest, -, -, hx⟩ | ⟨i, len, -, rfl⟩ | ⟨k, -, rfl⟩ | ⟨e, -, rfl⟩ := runTurn_next h
  · exact exec_mem hx
  · rfl
  · rfl
  · exact applyEnvEvent_mem e s

theorem step_mem {s t : State} (h : step s = .next t) : t.mem = s.mem := by
  obtain ⟨u, hu, rfl⟩ := step_next h
  have hturn : (takeTurn s).2.mem = s.mem := by rw [takeTurn_snd]
  exact (runTurn_mem hu).trans hturn

/-- Settles O23: every step keeps instruction memory as a whole, so every address reads as before. -/
theorem noStepWritesMemory : Obligations.NoStepWritesMemory :=
  fun _ _ h a => congrArg (memRead · a) (step_mem h)

/-! ## The turn of a step -/

/-- The state a turn is taken in differs from the step's in the schedule alone. -/
theorem takeTurn_eq_of_fst {s : State} {x : Turn} (h : (takeTurn s).1 = x) :
    takeTurn s = (x, { s with schedule := s.schedule.tail }) :=
  Prod.ext h (takeTurn_snd s)

/-- A scheduled turn of the environment always answers: its event, with the turn off the schedule and the draws' counter moved
on. -/
theorem step_of_env_turn {s : State} {e : EnvEvent} {later : List Turn} (hs : s.schedule = .env e :: later) :
    step s = .next { applyEnvEvent e { s with schedule := later } with
      draws := (applyEnvEvent e { s with schedule := later }).draws + 1 } :=
  (step_outcomes_of_runTurn (takeTurn_of_cons hs) rfl).1 _ rfl

/-- Settles O30: the turn empties the history of SCR, and what is synced reads each field's own bit. -/
theorem contextSyncSettlesScr : Obligations.ContextSyncSettlesScr := by
  intro s later hs
  have hsync : State.Synced { { s with schedule := later }.contextSync with draws := s.draws + 1 } := .inr rfl
  exact ⟨_, step_of_env_turn hs, rfl, hsync, hsync.eff_eq, rfl, rfl, rfl⟩

/-! ## The SIF values a fetch may see (R63, R206) -/

theorem State.mem_sifSet (s : State) (b : Bool) :
    s.sifSet.mem b = true ↔ s.tlbSif.mem b = true ∨ (s.effSet .sif).mem b = true := by
  simp [State.sifSet]

/-- Where a TLB may now hold every SIF value a fetch might see before, a fetch may see them still. -/
theorem State.mem_sifSet_of_tlbSif_eq {s t : State} (h : t.tlbSif = s.sifSet) {b : Bool} (hb : s.sifSet.mem b = true) :
    t.sifSet.mem b = true :=
  (t.mem_sifSet b).2 (.inl (h ▸ hb))

theorem applyEnvEvent_keeps_sifSet {e : EnvEvent} {s : State} (he : (Turn.env e).clearsTlb = false) {b : Bool}
    (hb : s.sifSet.mem b = true) : (applyEnvEvent e s).sifSet.mem b = true := by
  cases e with
  | contextSync => exact State.mem_sifSet_of_tlbSif_eq rfl hb
  | envChange e' => exact hb
  | tlbInvalidate | warmReset l => cases he

theorem exec_keeps_sifSet {i : Instr} {s t : State} (h : exec i s = .next t) {b : Bool} (hb : s.sifSet.mem b = true) :
    t.sifSet.mem b = true := by
  obtain rfl | ⟨-, r, rfl | rfl⟩ := exec_next h
  · exact hb
  · exact hb
  · exact State.mem_sifSet_of_tlbSif_eq rfl hb

theorem runTurn_keeps_sifSet {x : Turn} {s t : State} (h : runTurn x s = .next t) (hx : x.clearsTlb = false) {b : Bool}
    (hb : s.sifSet.mem b = true) : t.sifSet.mem b = true := by
  obtain ⟨-, i, bs, rest, -, -, hi⟩ | ⟨i, len, -, rfl⟩ | ⟨k, -, rfl⟩ | ⟨e, rfl, rfl⟩ := runTurn_next h
  · exact exec_keeps_sifSet hi hb
  · exact hb
  · exact hb
  · exact applyEnvEvent_keeps_sifSet hx hb

/-- Settles O32: the turn keeps the values, and the schedule and the draws' counter are not what they are read from. -/
theorem tlbKeepsSifValues : Obligations.TlbKeepsSifValues := by
  intro s t h hx b hb
  obtain ⟨u, hu, rfl⟩ := step_next h
  have hturn : (takeTurn s).2.sifSet.mem b = true := by rw [takeTurn_snd]; exact hb
  exact runTurn_keeps_sifSet hu hx hturn

theorem State.mem_sifSet_tlbInvalidate (s : State) (b : Bool) :
    s.tlbInvalidate.sifSet.mem b = true ↔ (s.effSet .sif).mem b = true :=
  (s.tlbInvalidate.mem_sifSet b).trans or_self_iff

/-- Settles O33: the TLB is left the candidates of SCR_eff.SIF, which the turn does not change. -/
theorem tlbInvalidateLeavesTheEffectiveSif : Obligations.TlbInvalidateLeavesTheEffectiveSif :=
  fun s _ hs => ⟨_, step_of_env_turn hs, s.mem_sifSet_tlbInvalidate, rfl, rfl, rfl, rfl⟩

theorem State.sifSet_nonempty (s : State) : s.sifSet.has0 = true ∨ s.sifSet.has1 = true :=
  (s.effSet_nonempty .sif).imp (fun h => (s.mem_sifSet false).2 (.inr h)) fun h => (s.mem_sifSet true).2 (.inr h)

/-- A fetch sees the one SIF value that is left to it. -/
theorem State.sifFetch_of_not_mem {s : State} {b : Bool} (h : s.sifSet.mem b = false) : s.sifFetch = !b :=
  s.sifSet.pick_of_not_mem _ b s.sifSet_nonempty h

/-! ## When R62 stops a fetch -/

theorem secureFetchStopped_of_only_sif_one {s : State} (hsec : s.isSecure = true) (hns : s.env.fetchFromNonsecure = true)
    (hsif : s.sifSet.mem false = false) : secureFetchStopped s = true := by
  simp [secureFetchStopped, hsec, hns, State.sifFetch_of_not_mem hsif]

theorem not_secureFetchStopped {s : State}
    (h : s.isSecure = false ∨ s.env.fetchFromNonsecure = false ∨ s.sifSet.mem true = false) :
    secureFetchStopped s = false := by
  obtain hsec | hns | hsif := h
  · simp [secureFetchStopped, hsec]
  · simp [secureFetchStopped, hns]
  · simp [secureFetchStopped, State.sifFetch_of_not_mem hsif]

theorem live_eq_true (p : Params) (e : Env) : live p e = true ↔ p.haveAA32EL3 = true ∧ e.el3Aarch32 = true :=
  Bool.and_eq_true_iff

theorem live_eq_false (p : Params) (e : Env) : live p e = false ↔ p.haveAA32EL3 = false ∨ e.el3Aarch32 = false :=
  Bool.and_eq_false_iff

/-- What a fetch that meets the condition of R62 answers (R62, R109). -/
def fetchStop (s : State) : Result :=
  if live s.params s.env then .fault .secureFetchDenied else .refused .fetchNotDecidedByScr

theorem fetchStop_of_live {s : State} (h : live s.params s.env = true) : fetchStop s = .fault .secureFetchDenied := by
  simp [fetchStop, h]

theorem fetchStop_of_not_live {s : State} (h : live s.params s.env = false) :
    fetchStop s = .refused .fetchNotDecidedByScr := by
  simp [fetchStop, h]

theorem fetched_of_stopped {s : State} (k : State → Result) (h : secureFetchStopped s = true) :
    fetched s k = fetchStop s := by
  simp [fetched, fetchStop, takeException, h]

/-- A turn that fetches and is not held answers as R62 says where its condition is met. -/
theorem runTurn_of_fetch_stopped {x : Turn} {s : State} (hx : x = .pe ∨ ∃ i len, x = .attempt i len)
    (hn : s.nsHold = false) (hf : secureFetchStopped s = true) : runTurn x s = fetchStop s := by
  obtain rfl | ⟨i, len, rfl⟩ := hx
  · rw [runTurn, peStep, peTurn_of_not_held _ hn, fetched_of_stopped _ hf]
  · rw [runTurn, peTurn_of_not_held _ hn, fetched_of_stopped _ hf]

/-! ## Nothing else answers as R62 does -/

/-- One of the two answers of a fetch that meets the condition of R62 (R62, R109): see `fetched_of_stopped`. -/
def IsFetchStop (r : Result) : Prop := r = .fault .secureFetchDenied ∨ r = .refused .fetchNotDecidedByScr

theorem scrAccessCheck_ne_secureFetchDenied (p : Params) (e : Env) (secure : Bool) :
    scrAccessCheck p e secure ≠ .stop .secureFetchDenied := by
  unfold scrAccessCheck
  repeat' split
  all_goals simp

theorem condFail_ne_refused (s : State) (r : Refusal) : condFail s ≠ .refused r := by
  obtain h | ⟨f, -, h⟩ := condFail_eq s <;> simp [h]

theorem scrAccess_refused {cond : Option (BitVec 4)} {rt : BitVec 4} {tr : Fin 15 → State → State} {s : State} {r : Refusal}
    (h : scrAccess cond rt tr s = .refused r) : r = .rtIs15 ∨ r = .condIsNotACondition := by
  unfold scrAccess at h
  split at h
  · cases h; exact .inl rfl
  · split at h
    · cases h; exact .inr rfl
    · split at h
      · exact absurd h (condFail_ne_refused s r)
      · split at h <;> cases h

theorem attempt_refused {i : UnencodedInsn} {len : Nat} {s : State} {r : Refusal} (h : attempt i len s = .refused r) :
    r = .proceeds i ∨ r = .noSuchState := by
  unfold attempt at h
  cases hv : s.verdict i with
  | monitorTrap c | undefined w | nop | lowerException => rw [hv] at h; cases h
  | noSuchState => rw [hv] at h; cases h; exact .inr rfl
  | proceeds =>
    rw [hv] at h
    simp only at h
    split at h <;> cases h
    exact .inl rfl

theorem takeAsync_refused {k : AsyncKind} {s : State} {r : Refusal} (h : takeAsync k s = .refused r) :
    r = .notDecidedByScr k := by
  unfold takeAsync at h
  split at h
  · cases h
  · split at h
    · cases h; rfl
    · split at h <;> cases h

theorem exec_not_isFetchStop (i : Instr) (s : State) : ¬ IsFetchStop (exec i s) := by
  rw [exec_eq_scrAccess]
  rintro (h | h)
  · exact scrAccessCheck_ne_secureFetchDenied _ _ _ (scrAccess_fault h)
  · obtain hr | hr := scrAccess_refused h <;> cases hr

theorem attempt_not_isFetchStop (i : UnencodedInsn) (len : Nat) (s : State) : ¬ IsFetchStop (attempt i len s) := by
  rintro (h | h)
  · obtain ⟨c, hf, -⟩ | ⟨w, hf, -⟩ | ⟨hf, -⟩ := attempt_fault h <;> cases hf
  · obtain hr | hr := attempt_refused h <;> cases hr

theorem takeAsync_not_isFetchStop (k : AsyncKind) (s : State) : ¬ IsFetchStop (takeAsync k s) := by
  rintro (h | h)
  · obtain ⟨-, -, -, hf⟩ := (takeAsync_eq_fault k s _).1 h
    cases hf
  · cases takeAsync_refused h

theorem withInstrAt_not_isFetchStop (s : State) {k : Instr → Result} (hk : ∀ i, ¬ IsFetchStop (k i)) :
    ¬ IsFetchStop (withInstrAt s k) := by
  unfold withInstrAt
  split
  · simp [IsFetchStop]
  · split
    · simp [IsFetchStop]
    · split
      · exact hk _
      · simp [IsFetchStop]

theorem peTurn_isFetchStop {s : State} {k : State → Result} (h : IsFetchStop (peTurn s k)) :
    peTurn s k = k s ∧ IsFetchStop (k s) := by
  cases hn : s.nsHold with
  | false => exact ⟨peTurn_of_not_held k hn, peTurn_of_not_held k hn ▸ h⟩
  | true => simp [peTurn, hn, IsFetchStop] at h

/-- A turn that fetches, and behind its fetch never answers as the fetch rule does, answers so only where R62's condition is met. -/
theorem peTurn_fetched_isFetchStop {s : State} {k : State → Result} (hk : ¬ IsFetchStop (k s))
    (h : IsFetchStop (peTurn s fun s => fetched s k)) :
    secureFetchStopped s = true ∧ (peTurn s fun s => fetched s k) = fetchStop s := by
  obtain ⟨heq, hans⟩ := peTurn_isFetchStop h
  cases hf : secureFetchStopped s with
  | true => exact ⟨rfl, heq.trans (fetched_of_stopped k hf)⟩
  | false => exact absurd (fetched_of_not_stopped k hf ▸ hans) hk

theorem runTurn_isFetchStop {x : Turn} {s : State} (h : IsFetchStop (runTurn x s)) :
    secureFetchStopped s = true ∧ runTurn x s = fetchStop s := by
  cases x with
  | pe => exact peTurn_fetched_isFetchStop (withInstrAt_not_isFetchStop s fun i => exec_not_isFetchStop i s) h
  | attempt i len => exact peTurn_fetched_isFetchStop (attempt_not_isFetchStop i len s) h
  | takeAsync k => exact absurd (peTurn_isFetchStop h).2 (takeAsync_not_isFetchStop k s)
  | env e => simp [runTurn, IsFetchStop] at h

theorem afterStep_isFetchStop {r : Result} (h : IsFetchStop (afterStep r)) : afterStep r = r ∧ IsFetchStop r := by
  cases r with
  | next t => simp [afterStep, IsFetchStop] at h
  | fault f | refused q => exact ⟨rfl, h⟩

/-- A step answers as R62 does only where the condition of R62 is met, and then as R109 divides the two answers. -/
theorem step_isFetchStop {s : State} (h : IsFetchStop (step s)) : secureFetchStopped s = true ∧ step s = fetchStop s := by
  obtain ⟨heq, hans⟩ := afterStep_isFetchStop h
  obtain ⟨hf, hstop⟩ := runTurn_isFetchStop hans
  have hstep : step s = fetchStop (takeTurn s).2 := heq.trans hstop
  rw [takeTurn_snd] at hf hstep
  exact ⟨hf, hstep⟩

/-- Settles O35: a stopped fetch answers as R62 and R109 say, and no other step answers so. -/
theorem secureFetchIsDeniedBySif : Obligations.SecureFetchIsDeniedBySif := by
  refine ⟨fun s hx hn hsec hns hsif => ?stopped, fun s => ⟨fun h => ?notStopped, fun hl hd => ?notLive⟩⟩
  case stopped =>
    have hf : secureFetchStopped s = true := secureFetchStopped_of_only_sif_one hsec hns hsif
    obtain ⟨-, hfault, hrefused⟩ := step_outcomes_of_runTurn (takeTurn_eq_of_fst rfl) (runTurn_of_fetch_stopped hx hn hf)
    exact ⟨fun hl => hfault _ (fetchStop_of_live ((live_eq_true _ _).2 hl)),
      fun hl => hrefused _ (fetchStop_of_not_live ((live_eq_false _ _).2 hl))⟩
  case notStopped =>
    have hans : ¬ IsFetchStop (step s) := fun ha => by simpa [not_secureFetchStopped h] using (step_isFetchStop ha).1
    exact not_or.1 hans
  case notLive =>
    have hstop := (step_isFetchStop (.inl hd)).2
    rw [hd, fetchStop_of_not_live ((live_eq_false _ _).2 hl)] at hstop
    cases hstop

/-! ## The alignment of the pc (R65) -/

theorem pcAligned_a32 (pc : Word) : pcAligned .a32 pc = true ↔ pc.toNat % 4 = 0 := by
  simp [pcAligned, ← BitVec.toNat_inj]

theorem pcAligned_t32 (pc : Word) : pcAligned .t32 pc = true ↔ pc.toNat % 2 = 0 := by
  simp [pcAligned, ← BitVec.toNat_inj]

theorem withInstrAt_of_misaligned {s : State} (k : Instr → Result) (h : pcAligned s.isa s.pc = false) :
    withInstrAt s k = .refused .misalignedPc := by
  simp [withInstrAt, h]

theorem runTurn_pe_of_misaligned {s : State} (hn : s.nsHold = false) (hf : secureFetchStopped s = false)
    (h : pcAligned s.isa s.pc = false) : runTurn .pe s = .refused .misalignedPc := by
  rw [runTurn, peStep, peTurn_of_not_held _ hn, fetched_of_not_stopped _ hf, withInstrAt_of_misaligned _ h]

/-- Settles O8: nothing that comes before the alignment stops the turn. -/
theorem misalignedPcIsRefused : Obligations.MisalignedPcIsRefused := by
  intro s hpe hn hf hpc
  have hal : pcAligned s.isa s.pc = false := by
    obtain ⟨hi, hm⟩ | ⟨hi, hm⟩ := hpc
    · rw [hi]; exact Bool.eq_false_iff.2 (mt (pcAligned_a32 s.pc).1 hm)
    · rw [hi]; exact Bool.eq_false_iff.2 (mt (pcAligned_t32 s.pc).1 hm)
  exact (step_outcomes_of_runTurn (takeTurn_eq_of_fst hpe) (runTurn_pe_of_misaligned hn hf hal)).2.2 _ rfl

end Sys2Proof.Machine

namespace Sys2Proof

open BitVec (extractLsb'_append_eq_of_le extractLsb'_append_eq_of_add_le extractLsb'_eq_self
  extractLsb'_append_extractLsb'_eq_extractLsb')

/-! ## The fields of a word (R86, R87) -/

/-- The decoded term that selects SCR (R82, R85): the tuple is SCR's, the direction, the condition and `t` are free. -/
def scrTerm (dir : Dir) (cond : Option (BitVec 4)) (rt : BitVec 4) : SysRegAccess where
  dir := dir
  cond := cond
  coproc := 0b1111#4
  opc1 := 0b000#3
  rt := rt
  crn := 0b0001#4
  crm := 0b0001#4
  opc2 := 0b000#3

/-- A T32 pair is laid out as the A32 word whose cond field is 0b1110 (R87, log 6). -/
theorem wordT32_eq_wordA32 (l : BitVec 1) (rt : BitVec 4) : wordT32 l rt = wordA32 0b1110#4 l rt := rfl

/-- A word is its fields, most significant first (R86). -/
theorem word_eq_append_fields (w : Word) :
    w = w.extractLsb' 28 4 ++ w.extractLsb' 24 4 ++ w.extractLsb' 21 3 ++ w.extractLsb' 20 1 ++ w.extractLsb' 16 4
      ++ w.extractLsb' 12 4 ++ w.extractLsb' 8 4 ++ w.extractLsb' 5 3 ++ w.extractLsb' 4 1 ++ w.extractLsb' 0 4 := by
  simp -index only [extractLsb'_append_extractLsb'_eq_extractLsb']
  exact extractLsb'_eq_self.symm

/-- The condition and the bits of R86 that make a word an MRC or MCR. -/
theorem fixedFields_wordA32 (cond : BitVec 4) (l : BitVec 1) (rt : BitVec 4) :
    (wordA32 cond l rt).extractLsb' 28 4 = cond ∧ (wordA32 cond l rt).extractLsb' 24 4 = 0b1110#4
      ∧ (wordA32 cond l rt).extractLsb' 4 1 = 1#1 := by
  simp -index only [wordA32, extractLsb'_append_eq_of_le, extractLsb'_append_eq_of_add_le, extractLsb'_eq_self,
    Nat.reduceLeDiff, Nat.reduceAdd, Nat.reduceSub, and_self]

theorem accessOfWord_wordA32 (c : Option (BitVec 4)) (cond : BitVec 4) (l : BitVec 1) (rt : BitVec 4) :
    accessOfWord c (wordA32 cond l rt) = scrTerm (dirOfL l) c rt := by
  simp -index only [accessOfWord, scrTerm, wordA32, extractLsb'_append_eq_of_le, extractLsb'_append_eq_of_add_le,
    extractLsb'_eq_self, Nat.reduceLeDiff, Nat.reduceAdd, Nat.reduceSub]

theorem selectsScr_accessOfWord (c : Option (BitVec 4)) (w : Word) :
    (accessOfWord c w).selectsScr = true ↔
      w.extractLsb' 8 4 = 15#4 ∧ w.extractLsb' 21 3 = 0#3 ∧ w.extractLsb' 16 4 = 1#4 ∧ w.extractLsb' 0 4 = 1#4
        ∧ w.extractLsb' 5 3 = 0#3 := by
  simp [SysRegAccess.selectsScr, accessOfWord, and_assoc]

/-- The fixed bits of MRC and MCR and SCR's tuple leave cond, L and Rt open. -/
theorem eq_wordA32_of_selectsScr {c : Option (BitVec 4)} {w : Word} (hfix : w.extractLsb' 24 4 = 0b1110#4)
    (hbit : w.extractLsb' 4 1 = 1#1) (hscr : (accessOfWord c w).selectsScr = true) :
    w = wordA32 (w.extractLsb' 28 4) (w.extractLsb' 20 1) (w.extractLsb' 12 4) := by
  obtain ⟨hcoproc, hopc1, hcrn, hcrm, hopc2⟩ := (selectsScr_accessOfWord c w).1 hscr
  calc w = _ := word_eq_append_fields w
    _ = _ := by rw [hfix, hbit, hcoproc, hopc1, hcrn, hcrm, hopc2]; rfl

/-! ## The System register access a word is -/

theorem accessOfA32_eq_some (w : Word) (a : SysRegAccess) :
    accessOfA32 w = some a ↔ w.extractLsb' 24 4 = 0b1110#4 ∧ w.extractLsb' 4 1 = 1#1
      ∧ condAdmitted (w.extractLsb' 28 4) = true ∧ accessOfWord (some (w.extractLsb' 28 4)) w = a := by
  simp [accessOfA32, and_assoc]

theorem accessOfT32_eq_some (w : Word) (a : SysRegAccess) :
    accessOfT32 w = some a ↔ w.extractLsb' 24 8 = 0b11101110#8 ∧ w.extractLsb' 4 1 = 1#1 ∧ accessOfWord none w = a := by
  simp [accessOfT32, and_assoc]

/-- The first eight bits of a T32 access are the A32 fields 0b1110 and 0b1110. -/
theorem extractLsb'_24_8_eq_iff (w : Word) :
    w.extractLsb' 24 8 = 0b11101110#8 ↔ w.extractLsb' 28 4 = 0b1110#4 ∧ w.extractLsb' 24 4 = 0b1110#4 := by
  have hsplit : w.extractLsb' 24 8 = w.extractLsb' 28 4 ++ w.extractLsb' 24 4 :=
    (extractLsb'_append_extractLsb'_eq_extractLsb' (len₁ := 4) (len₂ := 4) rfl).symm
  rw [hsplit]
  generalize w.extractLsb' 28 4 = a
  generalize w.extractLsb' 24 4 = b
  revert a b
  decide

theorem accessOfA32_wordA32 {cond : BitVec 4} (l : BitVec 1) (rt : BitVec 4) (hc : condAdmitted cond = true) :
    accessOfA32 (wordA32 cond l rt) = some (scrTerm (dirOfL l) (some cond) rt) := by
  obtain ⟨hcond, hfix, hbit⟩ := fixedFields_wordA32 cond l rt
  rw [accessOfA32_eq_some, hcond]
  exact ⟨hfix, hbit, hc, accessOfWord_wordA32 _ _ _ _⟩

theorem accessOfT32_wordT32 (l : BitVec 1) (rt : BitVec 4) :
    accessOfT32 (wordT32 l rt) = some (scrTerm (dirOfL l) none rt) := by
  obtain ⟨hcond, hfix, hbit⟩ := fixedFields_wordA32 0b1110#4 l rt
  rw [accessOfT32_eq_some, wordT32_eq_wordA32, extractLsb'_24_8_eq_iff]
  exact ⟨⟨hcond, hfix⟩, hbit, accessOfWord_wordA32 _ _ _ _⟩

/-- An A32 word that is an access to SCR is `wordA32` of its operands. -/
theorem wordA32_of_accessOfA32 {w : Word} {a : SysRegAccess} (h : accessOfA32 w = some a) (hscr : a.selectsScr = true) :
    ∃ cond l rt, condAdmitted cond = true ∧ w = wordA32 cond l rt ∧ a = scrTerm (dirOfL l) (some cond) rt := by
  obtain ⟨hfix, hbit, hc, rfl⟩ := (accessOfA32_eq_some w a).1 h
  have hw := eq_wordA32_of_selectsScr hfix hbit hscr
  refine ⟨_, _, _, hc, hw, ?_⟩
  conv_lhs => rw [hw]
  rw [accessOfWord_wordA32, ← hw]

/-- A T32 pair that is an access to SCR is `wordT32` of its operands. -/
theorem wordT32_of_accessOfT32 {w : Word} {a : SysRegAccess} (h : accessOfT32 w = some a) (hscr : a.selectsScr = true) :
    ∃ l rt, w = wordT32 l rt ∧ a = scrTerm (dirOfL l) none rt := by
  obtain ⟨hfix, hbit, rfl⟩ := (accessOfT32_eq_some w a).1 h
  obtain ⟨hhigh, hlow⟩ := (extractLsb'_24_8_eq_iff w).1 hfix
  have hw := eq_wordA32_of_selectsScr hlow hbit hscr
  rw [hhigh] at hw
  refine ⟨_, _, hw, ?_⟩
  conv_lhs => rw [hw]
  exact accessOfWord_wordA32 _ _ _ _

/-! ## Which terms are admitted (R92, R135) -/

theorem admitAccess_eq_ok (x : Option SysRegAccess) (i : Instr) :
    admitAccess x = .ok i ↔ ∃ a, x = some a ∧ a.selectsScr = true ∧ rtAdmitted a.rt = true ∧ instrOfAccess a = i := by
  cases x with
  | none => simp [admitAccess]
  | some a =>
    cases hs : a.selectsScr <;> cases hr : rtAdmitted a.rt <;> simp [admitAccess, hs, hr]

theorem admitAccess_of_not_selectsScr {a : SysRegAccess} (h : a.selectsScr = false) :
    admitAccess (some a) = .error .systemRegisterNotScr := by
  simp [admitAccess, h]

theorem admitAccess_scrTerm (dir : Dir) (cond : Option (BitVec 4)) {rt : BitVec 4} (h : rtAdmitted rt = true) :
    admitAccess (some (scrTerm dir cond rt)) = .ok (instrOfAccess (scrTerm dir cond rt)) :=
  (admitAccess_eq_ok _ _).2 ⟨_, rfl, rfl, h, rfl⟩

/-! ## Decoding and encoding words -/

theorem encode_instrOfAccess_a32 (cond : BitVec 4) (l : BitVec 1) (rt : BitVec 4) :
    encode (instrOfAccess (scrTerm (dirOfL l) (some cond) rt)) = wordA32 cond l rt := by
  obtain rfl | rfl := BitVec.eq_zero_or_eq_one l <;> rfl

theorem encode_instrOfAccess_t32 (l : BitVec 1) (rt : BitVec 4) :
    encode (instrOfAccess (scrTerm (dirOfL l) none rt)) = wordT32 l rt := by
  obtain rfl | rfl := BitVec.eq_zero_or_eq_one l <;> rfl

theorem instrOfAccess_scrTerm_a32 (dir : Dir) (cond rt : BitVec 4) :
    (instrOfAccess (scrTerm dir (some cond) rt)).isa = .a32
      ∧ (instrOfAccess (scrTerm dir (some cond) rt)).wellFormed = (condAdmitted cond && rtAdmitted rt) := by
  cases dir <;> exact ⟨rfl, rfl⟩

theorem instrOfAccess_scrTerm_t32 (dir : Dir) (rt : BitVec 4) :
    (instrOfAccess (scrTerm dir none rt)).isa = .t32 ∧ (instrOfAccess (scrTerm dir none rt)).wellFormed = rtAdmitted rt := by
  cases dir <;> exact ⟨rfl, rfl⟩

theorem decodeWord_encode (i : Instr) (h : i.wellFormed = true) : decodeWord i.isa (encode i) = .ok i := by
  cases i with
  | mrcScrA32 cond rt | mcrScrA32 cond rt =>
    obtain ⟨hc, hr⟩ := Bool.and_eq_true_iff.1 h
    simp only [Instr.isa, encode, decodeWord, accessOfA32_wordA32 _ _ hc, admitAccess_scrTerm _ _ hr]
    rfl
  | mrcScrT32 rt | mcrScrT32 rt =>
    simp only [Instr.isa, encode, decodeWord, accessOfT32_wordT32, admitAccess_scrTerm _ _ h]
    rfl

theorem encode_of_decodeWord {isa : InstrSet} {w : Word} {i : Instr} (h : decodeWord isa w = .ok i) :
    i.wellFormed = true ∧ i.isa = isa ∧ w = encode i := by
  cases isa with
  | a32 =>
    obtain ⟨a, ha, hscr, hr, rfl⟩ := (admitAccess_eq_ok _ i).1 h
    obtain ⟨cond, l, rt, hc, rfl, rfl⟩ := wordA32_of_accessOfA32 ha hscr
    obtain ⟨hisa, hwf⟩ := instrOfAccess_scrTerm_a32 (dirOfL l) cond rt
    exact ⟨hwf.trans (Bool.and_eq_true_iff.2 ⟨hc, hr⟩), hisa, (encode_instrOfAccess_a32 cond l rt).symm⟩
  | t32 =>
    obtain ⟨a, ha, hscr, hr, rfl⟩ := (admitAccess_eq_ok _ i).1 h
    obtain ⟨l, rt, rfl, rfl⟩ := wordT32_of_accessOfT32 ha hscr
    obtain ⟨hisa, hwf⟩ := instrOfAccess_scrTerm_t32 (dirOfL l) rt
    exact ⟨hwf.trans hr, hisa, (encode_instrOfAccess_t32 l rt).symm⟩

/-- A word decodes to an instruction exactly when it is that instruction's encoding. -/
theorem decodeWord_eq_ok (isa : InstrSet) (w : Word) (i : Instr) :
    decodeWord isa w = .ok i ↔ i.wellFormed = true ∧ i.isa = isa ∧ w = encode i := by
  refine ⟨encode_of_decodeWord, ?_⟩
  rintro ⟨hwf, rfl, rfl⟩
  exact decodeWord_encode i hwf

/-! ## Words and their bytes (R64) -/

/-- Four bytes are the bytes of the word they make, in either byte order. -/
theorem bytesOfWord_wordOfBytes (isa : InstrSet) (bigEndian : Bool) (b0 b1 b2 b3 : Byte) :
    bytesOfWord isa bigEndian (wordOfBytes isa bigEndian b0 b1 b2 b3) = [b0, b1, b2, b3] := by
  cases bigEndian <;> cases isa <;>
    simp -index only [bytesOfWord, wordOfBytes, extractLsb'_append_eq_of_le, extractLsb'_append_eq_of_add_le,
      extractLsb'_eq_self, Nat.reduceLeDiff, Nat.reduceAdd, Nat.reduceSub]

/-- The bytes of a word make that word again. -/
theorem bytesOfWord_eq_four (isa : InstrSet) (bigEndian : Bool) (w : Word) :
    ∃ b0 b1 b2 b3, bytesOfWord isa bigEndian w = [b0, b1, b2, b3] ∧ wordOfBytes isa bigEndian b0 b1 b2 b3 = w := by
  have hw : w.extractLsb' 24 8 ++ w.extractLsb' 16 8 ++ w.extractLsb' 8 8 ++ w.extractLsb' 0 8 = w := by
    simp -index only [extractLsb'_append_extractLsb'_eq_extractLsb', extractLsb'_eq_self]
  cases bigEndian <;> cases isa <;> exact ⟨_, _, _, _, rfl, hw⟩

/-- Bytes decode to an instruction exactly when they are the bytes of a word that does, and the rest. -/
theorem decode_eq_ok (isa : InstrSet) (bigEndian : Bool) (bs rest : List Byte) (i : Instr) :
    decode isa bigEndian bs = .ok (i, rest) ↔
      ∃ w, decodeWord isa w = .ok i ∧ bs = bytesOfWord isa bigEndian w ++ rest := by
  constructor
  · intro h
    unfold decode at h
    split at h
    next b0 b1 b2 b3 rest' =>
      split at h
      next j hj =>
        obtain ⟨rfl, rfl⟩ : j = i ∧ rest' = rest := by simpa using h
        exact ⟨_, hj, by rw [bytesOfWord_wordOfBytes]; rfl⟩
      next => cases h
    next => cases h
  · rintro ⟨w, hw, rfl⟩
    obtain ⟨b0, b1, b2, b3, hbytes, hword⟩ := bytesOfWord_eq_four isa bigEndian w
    simp [hbytes, decode, hword, hw]

/-! ## Rows of the opcode table -/

open Laws

theorem getLsbD_eq_of_and_eq {a b m : Word} (h : a &&& m = b &&& m) {n : Nat} (hn : m.getLsbD n = true) :
    a.getLsbD n = b.getLsbD n := by
  simpa [hn] using congrArg (·.getLsbD n) h

theorem getLsbD_eq_of_extractLsb'_eq {a b : Word} {start len n : Nat} (h : a.extractLsb' start len = b.extractLsb' start len)
    (hlo : start ≤ n) (hhi : n < start + len) : a.getLsbD n = b.getLsbD n := by
  have hbit := congrArg (·.getLsbD (n - start)) h
  simpa [show n - start < len by omega, Nat.add_sub_cancel' hlo] using hbit

/-- A row's mask and its free fields cover all bits of a word. -/
theorem eq_of_row {a b : Word} (i : Instr) (hmask : a &&& rowMask i = b &&& rowMask i) (ha : rowFields a i)
    (hb : rowFields b i) : a = b := by
  refine BitVec.eq_of_getLsbD_eq fun n hn => ?_
  cases i with
  | mrcScrA32 cond rt | mcrScrA32 cond rt =>
    have hcover : ∀ n < 32, (0x0FFF0FFF#32).getLsbD n = true ∨ 28 ≤ n ∨ 12 ≤ n ∧ n < 16 := by decide
    obtain hm | hc | ⟨hlo, hhi⟩ := hcover n hn
    · exact getLsbD_eq_of_and_eq hmask hm
    · exact getLsbD_eq_of_extractLsb'_eq (ha.1.trans hb.1.symm) hc hn
    · exact getLsbD_eq_of_extractLsb'_eq (ha.2.trans hb.2.symm) hlo hhi
  | mrcScrT32 rt | mcrScrT32 rt =>
    have hcover : ∀ n < 32, (0xFFFF0FFF#32).getLsbD n = true ∨ 12 ≤ n ∧ n < 16 := by decide
    obtain hm | ⟨hlo, hhi⟩ := hcover n hn
    · exact getLsbD_eq_of_and_eq hmask hm
    · exact getLsbD_eq_of_extractLsb'_eq (ha.trans hb.symm) hlo hhi

theorem wordOfRow (i : Instr) : WordOfRow.Statement i := by
  cases i with
  | mrcScrA32 cond rt => exact WordOfRow.mrcScrA32 cond rt
  | mcrScrA32 cond rt => exact WordOfRow.mcrScrA32 cond rt
  | mrcScrT32 rt => exact WordOfRow.mrcScrT32 rt
  | mcrScrT32 rt => exact WordOfRow.mcrScrT32 rt

/-- A word is the encoding of an instruction exactly when it is a word of its row with its operands. -/
theorem eq_encode_iff_row (w : Word) (i : Instr) : w = encode i ↔ w &&& rowMask i = rowMatch i ∧ rowFields w i := by
  obtain ⟨hmatch, hfields⟩ := wordOfRow i
  constructor
  · rintro rfl
    exact ⟨hmatch, hfields⟩
  · rintro ⟨hw, hf⟩
    exact eq_of_row i (hw.trans hmatch.symm) hf hfields

/-! ## The obligations on encoding -/

/-- Settles O2: the bytes of an encoding are the bytes of a word that decodes to the instruction. -/
theorem decodeInvertsEncode : Obligations.DecodeInvertsEncode := by
  intro bigEndian i rest hwf
  exact (decode_eq_ok i.isa bigEndian _ rest i).2 ⟨encode i, decodeWord_encode i hwf, rfl⟩

/-- Settles O3: bytes that decode are the bytes of a word that does, and that word is the instruction's encoding. -/
theorem decodedBytesAreAnEncoding : Obligations.DecodedBytesAreAnEncoding := by
  intro isa bigEndian bs i rest h
  obtain ⟨w, hw, rfl⟩ := (decode_eq_ok isa bigEndian bs rest i).1 h
  obtain ⟨hwf, rfl, rfl⟩ := encode_of_decodeWord hw
  exact ⟨hwf, rfl, rfl⟩

/-- Settles O4: a word decodes to an instruction when it is its encoding, that is, a word of its row with its operands. -/
theorem wordsOfTheRowsAreTheAccesses : Obligations.WordsOfTheRowsAreTheAccesses := by
  intro w cond rt
  simp only [decodeWord_eq_ok, eq_encode_iff_row, rowMask, rowMatch, rowFields, Instr.wellFormed, Instr.isa, condAdmitted,
    rtAdmitted, Bool.and_eq_true, bne_iff_ne]
  tauto

/-- Settles O5: the fixed bits make the word an access, and its tuple is not SCR's. -/
theorem otherSystemRegistersAreRefused : Obligations.OtherSystemRegistersAreRefused := by
  intro w hbit hdiff
  have hscr (c : Option (BitVec 4)) : (accessOfWord c w).selectsScr = false := by
    rw [Bool.eq_false_iff, ne_eq, selectsScr_accessOfWord]
    tauto
  refine ⟨fun hfix hcond => ?a32, fun hfix => ?t32⟩
  case a32 =>
    have ha := (accessOfA32_eq_some w _).2 ⟨hfix, hbit, bne_iff_ne.2 hcond, rfl⟩
    rw [decodeWord, ha, admitAccess_of_not_selectsScr (hscr _)]
  case t32 =>
    have ha := (accessOfT32_eq_some w _).2 ⟨hfix, hbit, rfl⟩
    rw [decodeWord, ha, admitAccess_of_not_selectsScr (hscr _)]

/-- Settles O1: the seventeen words, each decoded. -/
theorem wordsOfTheSpecDecodeAsItSays : Obligations.WordsOfTheSpecDecodeAsItSays := by
  unfold Obligations.WordsOfTheSpecDecodeAsItSays
  decide

end Sys2Proof

namespace Sys2Proof.Machine

/-! ## Instruction memory: reading back what was written (log 5, log 9) -/

/-- Writing bytes leaves every address outside them as it was. -/
theorem memRead_memWriteBytes_ne (m : Memory) (a x : Word) (bs : List Byte)
    (h : ∀ k < bs.length, x ≠ a + BitVec.ofNat 32 k) : memRead (memWriteBytes m a bs) x.toNat = memRead m x.toNat := by
  induction bs generalizing m a with
  | nil => rfl
  | cons b bs ih =>
    have hx : x.toNat ≠ a.toNat := fun e => h 0 (by simp) (by simpa using BitVec.eq_of_toNat_eq e)
    have hbs : ∀ k < bs.length, x ≠ a + 1 + BitVec.ofNat 32 k := by
      intro k hk e
      refine h (k + 1) (by simpa using hk) ?_
      rw [e, BitVec.ofNat_add]
      ac_rfl
    rw [memWriteBytes, ih _ _ hbs, memRead_memWrite_ne _ _ _ _ hx]

/-- Bytes written into the address space, without wrapping onto themselves, are read back. -/
theorem memReadBytes_memWriteBytes (m : Memory) (a : Word) (bs : List Byte) (h : bs.length ≤ 2 ^ 32) :
    memReadBytes (memWriteBytes m a bs) a bs.length = .ok bs := by
  induction bs generalizing m a with
  | nil => rfl
  | cons b bs ih =>
    rw [List.length_cons] at h
    have hfirst : ∀ k < bs.length, a ≠ a + 1 + BitVec.ofNat 32 k := fun k hk => by bv_omega
    have hread : memRead (memWriteBytes m a (b :: bs)) a.toNat = some b := by
      rw [memWriteBytes, memRead_memWriteBytes_ne _ _ _ _ hfirst, memRead_memWrite_self]
    simp only [List.length_cons, memReadBytes, hread]
    rw [memWriteBytes, ih _ _ (by omega)]

/-! ## A placed word (log 5, log 6) -/

theorem tableWord_toNat (w : Word) : tableWord 32 w.toNat = w := by
  rw [tableWord, Nat.mod_eq_of_lt w.isLt, BitVec.ofNat_toNat, BitVec.setWidth_eq]

theorem pcAligned_alignDown (isa : InstrSet) (pc : Word) : pcAligned isa (alignDown isa pc) = true := by
  cases isa with
  | a32 => simp [pcAligned, alignDown, BitVec.extractLsb'_and]
  | t32 => simp [pcAligned, alignDown, BitVec.extractLsb'_and]

/-- The turn after a word is placed is the PE's, and what was scheduled comes after it. -/
theorem takeTurn_placeWord (s : State) (w : Word) :
    takeTurn (placeWord s w) = (.pe, { placeWord s w with schedule := s.schedule }) := by
  cases hs : s.schedule <;> simp [takeTurn, placeWord, hs]

theorem memReadBytes_placeWord (s : State) (w : Word) :
    memReadBytes (placeWord s w).mem (placeWord s w).pc 4
      = .ok (bytesOfWord (tableIsa w) s.params.instrBigEndian w) := by
  obtain ⟨b0, b1, b2, b3, hbytes, -⟩ := bytesOfWord_eq_four (tableIsa w) s.params.instrBigEndian w
  simpa [placeWord, hbytes] using memReadBytes_memWriteBytes s.mem (alignDown (tableIsa w) s.pc) [b0, b1, b2, b3] (by simp)

/-- The PE's turn on a placed word that decodes is `exec` of the instruction, whatever is scheduled after it. -/
theorem runTurn_placeWord (s : State) (later : List Turn) {w : Word} {i : Instr} (h : decodeWord (tableIsa w) w = .ok i) :
    runTurn .pe { placeWord s w with schedule := later } = exec i { placeWord s w with schedule := later } := by
  have hdecode := (decode_eq_ok (tableIsa w) s.params.instrBigEndian _ [] i).2 ⟨w, h, rfl⟩
  rw [List.append_nil] at hdecode
  exact runTurn_pe_of_decoded rfl (not_secureFetchStopped (.inr (.inl rfl))) (pcAligned_alignDown _ _)
    (memReadBytes_placeWord s w) hdecode

/-- Settles O7: the PE's turn comes next, nothing it is gated by stops it, and the bytes it fetches are the word's. -/
theorem placedWordRunsNext : Obligations.PlacedWordRunsNext := by
  intro s w i h
  refine ⟨{ placeWord s w with schedule := s.schedule }, ?_, rfl, rfl, rfl, rfl, rfl, rfl, rfl, rfl, rfl⟩
  rw [State.withFetchWord, tableWord_toNat, step, takeTurn_placeWord, runTurn_placeWord s s.schedule h]

end Sys2Proof.Machine

namespace Sys2Proof.Machine

/-! ## An attempt the model refuses (D17) -/

theorem attempt_eq_refused_proceeds (i : UnencodedInsn) (len : Nat) (s : State) :
    attempt i len s = .refused (.proceeds i) ↔ s.verdict i = .proceeds ∧ s.completesAtOnce i = false := by
  unfold attempt
  cases s.verdict i <;> simp [takeException]

theorem attempt_eq_refused_noSuchState (i : UnencodedInsn) (len : Nat) (s : State) :
    attempt i len s = .refused .noSuchState ↔ s.verdict i = .noSuchState := by
  unfold attempt
  cases s.verdict i with
  | proceeds => cases s.completesAtOnce i <;> simp
  | monitorTrap c | undefined w | nop | lowerException | noSuchState => simp [takeException]

/-! ## WFE and WFI (R100 to R103) -/

theorem waitVerdict_cases (p : Params) (e : Env) (cause : TrapCause) (passed lower field sleep : Bool) :
    waitVerdict p e cause passed lower field sleep = .proceeds
      ∨ waitVerdict p e cause passed lower field sleep = .lowerException
      ∨ waitVerdict p e cause passed lower field sleep = .monitorTrap cause := by
  unfold waitVerdict
  repeat' split
  all_goals simp

theorem waitVerdict_proceeds {passed lower sleep : Bool} (p : Params) (e : Env) (cause : TrapCause) (field : Bool)
    (h : passed = false ∨ lower = false ∧ sleep = false) :
    waitVerdict p e cause passed lower field sleep = .proceeds := by
  obtain rfl | ⟨rfl, rfl⟩ := h
  · simp [waitVerdict]
  · simp [waitVerdict]

theorem State.wouldSleep_of_wakeupPending {s : State} (h : s.env.wakeupPending = true) : s.wouldSleep = false := by
  simp [State.wouldSleep, h]

/-- What WFE and WFI share: one verdict and one rule of completion, over the trap each reports, its condition, the exception that has
priority and its trap field. -/
structure State.IsWait (s : State) (i : UnencodedInsn) (cause : TrapCause) (passed lower field : Bool) : Prop where
  verdict_eq : s.verdict i = waitVerdict s.params s.env cause passed lower field s.wouldSleep
  completesAtOnce_eq : s.completesAtOnce i = (live s.params s.env && (!passed || !s.wouldSleep))

theorem State.isWait_wfe (s : State) (cond : Option (BitVec 4)) :
    s.IsWait (.wfe cond) .wfe (conditionPassed s.env cond) s.env.wfeTrappedLower (s.eff .verdict .twe) :=
  ⟨rfl, rfl⟩

theorem State.isWait_wfi (s : State) (cond : Option (BitVec 4)) :
    s.IsWait (.wfi cond) .wfi (conditionPassed s.env cond) s.env.wfiTrappedLower (s.eff .verdict .twi) :=
  ⟨rfl, rfl⟩

section IsWait
variable {s : State} {i : UnencodedInsn} {cause : TrapCause} {passed lower field : Bool}

theorem State.IsWait.monitorTrap_iff (h : s.IsWait i cause passed lower field) (len : Nat) :
    attempt i len s = .fault (.monitorTrap cause) ↔
      s.params.haveAA32EL3 = true ∧ s.env.el3Aarch32 = true ∧ passed = true
        ∧ lower = false ∧ field = true ∧ s.env.modeIsMonitor = false ∧ s.wouldSleep = true := by
  rw [attempt_monitorTrap, h.verdict_eq, waitVerdict_monitorTrap, live_eq_true]
  simp only [and_assoc, and_true]

theorem State.IsWait.lowerException_iff (h : s.IsWait i cause passed lower field) (len : Nat) :
    attempt i len s = .fault .lowerException ↔
      s.params.haveAA32EL3 = true ∧ s.env.el3Aarch32 = true ∧ passed = true ∧ lower = true := by
  rw [attempt_lowerException, h.verdict_eq, waitVerdict_lowerException, live_eq_true, and_assoc]

theorem State.IsWait.fault_cases (h : s.IsWait i cause passed lower field) (len : Nat) {f : Fault}
    (hf : attempt i len s = .fault f) : f = .monitorTrap cause ∨ f = .lowerException := by
  have hverdict := waitVerdict_cases s.params s.env cause passed lower field s.wouldSleep
  rw [← h.verdict_eq] at hverdict
  obtain ⟨c, rfl, hc⟩ | ⟨w, -, hw⟩ | ⟨rfl, -⟩ := attempt_fault hf
  · simpa [hc] using hverdict
  · simp [hw] at hverdict
  · exact .inr rfl

/-- A failed condition, or no exception due and no sleep, completes the wait where this SCR is the control. -/
theorem State.IsWait.completes (h : s.IsWait i cause passed lower field) (len : Nat) (hl : live s.params s.env = true)
    (hw : passed = false ∨ lower = false ∧ s.wouldSleep = false) : attempt i len s = .next (s.advancePc len) := by
  refine (attempt_eq_next_advancePc i len s).2 (.inr ⟨h.verdict_eq.trans (waitVerdict_proceeds _ _ _ _ hw), ?_⟩)
  obtain hp | ⟨-, hs⟩ := hw
  · simp [h.completesAtOnce_eq, hl, hp]
  · simp [h.completesAtOnce_eq, hl, hs]

/-- Under the trap's other conditions, whether the wait would sleep decides between the trap and completion. -/
theorem State.IsWait.traps_or_completes (h : s.IsWait i cause passed lower field) (len : Nat)
    (hl : live s.params s.env = true) (hp : passed = true) (hlow : lower = false) (hf : field = true)
    (hm : s.env.modeIsMonitor = false) :
    (attempt i len s = .fault (.monitorTrap cause) ∨ attempt i len s = .next (s.advancePc len))
      ∧ (s.env.wakeupPending = true → attempt i len s = .next (s.advancePc len)) := by
  refine ⟨?either, fun hwake => h.completes len hl (.inr ⟨hlow, State.wouldSleep_of_wakeupPending hwake⟩)⟩
  cases hs : s.wouldSleep with
  | true =>
    obtain ⟨hscr, hel3⟩ := (live_eq_true _ _).1 hl
    exact .inl ((h.monitorTrap_iff len).2 ⟨hscr, hel3, hp, hlow, hf, hm, hs⟩)
  | false => exact .inr (h.completes len hl (.inr ⟨hlow, hs⟩))

end IsWait

/-- Settles O37: both are waits, whose faults are decided by the one verdict they share. -/
theorem waitsAreTrappedByTweAndTwi : Obligations.WaitsAreTrappedByTweAndTwi := by
  intro s cond len
  have hwfe := s.isWait_wfe cond
  have hwfi := s.isWait_wfi cond
  exact ⟨hwfe.monitorTrap_iff len, hwfe.lowerException_iff len, fun _ => hwfe.fault_cases len,
    hwfi.monitorTrap_iff len, hwfi.lowerException_iff len, fun _ => hwfi.fault_cases len⟩

/-- Settles O38: a wait under its trap's conditions traps if it would sleep and completes if not, and a Wakeup event keeps it from
sleeping. -/
theorem trappedWaitsNeverSleep : Obligations.TrappedWaitsNeverSleep := by
  intro s cond len hscr hel3
  have hl := (live_eq_true _ _).2 ⟨hscr, hel3⟩
  have hwfe := s.isWait_wfe cond
  have hwfi := s.isWait_wfi cond
  exact ⟨hwfe.traps_or_completes len hl, hwfi.traps_or_completes len hl,
    fun hp => ⟨hwfe.completes len hl (.inl hp), hwfi.completes len hl (.inl hp)⟩⟩

/-! ## HVC (R104) -/

theorem hvcVerdict_of_no_el2 {p : Params} (e : Env) (secure hce : Bool) (h : haveEL2 p = false) :
    hvcVerdict p e secure hce = .undefined .notSaid := by
  simp [hvcVerdict, h]

theorem hvcVerdict_of_el0_or_secure (p : Params) {e : Env} {secure : Bool} (hce : Bool) (h : e.el = .el0 ∨ secure = true) :
    hvcVerdict p e secure hce = .undefined .notSaid := by
  obtain h | h := h
  · simp [hvcVerdict, h]
  · simp [hvcVerdict, h]

theorem hvcVerdict_proceeds {p : Params} {e : Env} {secure hce : Bool} (h2 : haveEL2 p = true) (h0 : e.el ≠ .el0)
    (hs : secure = false) (h : live p e = false ∨ hce = true) : hvcVerdict p e secure hce = .proceeds := by
  obtain h | h := h
  · simp [hvcVerdict, h2, h0, hs, h]
  · simp [hvcVerdict, h2, h0, hs, h]

/-- Where HCE disables it, the Exception level decides. -/
theorem hvcVerdict_disabled {p : Params} {e : Env} {secure hce : Bool} (h2 : haveEL2 p = true) (hs : secure = false)
    (hl : live p e = true) (h : hce = false) :
    (e.el = .el1 → hvcVerdict p e secure hce = .undefined .fromPl1ToPl1)
      ∧ (e.el = .el2 → hvcVerdict p e secure hce = disabledVerdict p.hvcEl2Disabled)
      ∧ (e.el = .el3 → hvcVerdict p e secure hce = .noSuchState) := by
  refine ⟨fun hel => ?_, fun hel => ?_, fun hel => ?_⟩ <;> simp [hvcVerdict, h2, hs, hl, h, hel]

/-- Settles O39: the attempt answers as the verdict of each case says. -/
theorem hvcIsEnabledByHce : Obligations.HvcIsEnabledByHce := by
  intro s len
  refine ⟨fun h2 => (attempt_undefined _ _ _ _).2 (hvcVerdict_of_no_el2 _ _ _ h2),
    fun h => (attempt_undefined _ _ _ _).2 (hvcVerdict_of_el0_or_secure _ _ h), fun h2 h0 hs => ⟨?proceeds, ?disabled⟩⟩
  case proceeds =>
    intro h
    exact (attempt_eq_refused_proceeds _ _ _).2 ⟨hvcVerdict_proceeds h2 h0 hs h, rfl⟩
  case disabled =>
    intro hl h
    obtain ⟨hel1, hel2, hel3⟩ := hvcVerdict_disabled h2 hs hl h
    refine ⟨fun hel => (attempt_undefined _ _ _ _).2 (hel1 hel), fun hel hd => (attempt_undefined _ _ _ _).2 ?_,
      fun hel hd => (attempt_eq_next_advancePc _ _ _).2 (.inl ?_),
      fun hel => (attempt_eq_refused_noSuchState _ _ _).2 (hel3 hel)⟩
    · exact (hel2 hel).trans (by rw [hd, disabledVerdict])
    · exact (hel2 hel).trans (by rw [hd, disabledVerdict])

/-! ## SMC (R105) -/

theorem smcVerdict_of_el0 (p : Params) {e : Env} (secure scd : Bool) (h : e.el = .el0) :
    smcVerdict p e secure scd = .undefined .notSaid := by
  simp [smcVerdict, h]

theorem smcVerdict_proceeds {p : Params} {e : Env} (secure : Bool) {scd : Bool} (h0 : e.el ≠ .el0)
    (h : live p e = false ∨ scd = false) : smcVerdict p e secure scd = .proceeds := by
  obtain h | h := h
  · simp [smcVerdict, h0, h]
  · simp [smcVerdict, h0, h]

/-- Where SCD disables it, the Security state decides. -/
theorem smcVerdict_disabled {p : Params} {e : Env} {scd : Bool} (secure : Bool) (h0 : e.el ≠ .el0) (hl : live p e = true)
    (h : scd = true) :
    smcVerdict p e secure scd = if secure then disabledVerdict p.smcSecureDisabled else .undefined (.atCurrentEl e.el) := by
  cases secure <;> simp [smcVerdict, h0, hl, h]

/-- Settles O40: the attempt answers as the verdict of each case says. -/
theorem smcIsDisabledByScd : Obligations.SmcIsDisabledByScd := by
  intro s len
  refine ⟨fun h0 => (attempt_undefined _ _ _ _).2 (smcVerdict_of_el0 _ _ _ h0), fun h0 => ⟨?proceeds, ?disabled⟩⟩
  case proceeds =>
    intro h
    exact (attempt_eq_refused_proceeds _ _ _).2 ⟨smcVerdict_proceeds _ h0 h, rfl⟩
  case disabled =>
    intro hl h
    have hverdict := smcVerdict_disabled s.isSecure h0 hl h
    refine ⟨fun hs => (attempt_undefined _ _ _ _).2 (hverdict.trans ?_),
      fun hs hd => (attempt_undefined _ _ _ _).2 (hverdict.trans ?_),
      fun hs hd => (attempt_eq_next_advancePc _ _ _).2 (.inl (hverdict.trans ?_))⟩
    · simp [hs]
    · simp [hs, hd, disabledVerdict]
    · simp [hs, hd, disabledVerdict]

/-! ## Error record accesses (R106) -/

/-- The trapped set: every register the source names, four of them with FEAT_RASv1p1 alone. -/
theorem errTrapped_eq_true (p : Params) (reg : ErrReg) :
    errTrapped p reg = true ↔ reg ≠ .other
      ∧ (reg = .erxmisc4 ∨ reg = .erxmisc5 ∨ reg = .erxmisc6 ∨ reg = .erxmisc7 → p.haveRasV1p1 = true) := by
  cases reg <;> simp [errTrapped]

theorem errTrapped_eq_false {p : Params} {reg : ErrReg} (h : reg = .other
    ∨ (p.haveRasV1p1 = false ∧ (reg = .erxmisc4 ∨ reg = .erxmisc5 ∨ reg = .erxmisc6 ∨ reg = .erxmisc7))) :
    errTrapped p reg = false := by
  rw [Bool.eq_false_iff, ne_eq, errTrapped_eq_true]
  rintro ⟨hother, hmisc⟩
  obtain h | ⟨hras, hreg⟩ := h
  · exact hother h
  · simp [hmisc hreg] at hras

theorem errVerdict_trapped {p : Params} {e : Env} {reg : ErrReg} {terr : Bool} (kind : ErrKind) (lowerWins : Bool)
    (hl : live p e = true) (hras : p.haveRas = true) (ht : terr = true) (hm : e.modeIsMonitor = false)
    (hreg : errTrapped p reg = true) :
    errVerdict p e kind reg terr lowerWins =
      if e.errOtherException && lowerWins then .lowerException else .monitorTrap (errCause kind) := by
  simp [errVerdict, hl, hras, ht, hm, hreg]

theorem errVerdict_proceeds {p : Params} {e : Env} {reg : ErrReg} {terr : Bool} (kind : ErrKind) (lowerWins : Bool)
    (h : live p e = false ∨ e.modeIsMonitor = true ∨ terr = false ∨ p.haveRas = false ∨ errTrapped p reg = false) :
    errVerdict p e kind reg terr lowerWins = .proceeds := by
  obtain h | h | h | h | h := h <;> simp [errVerdict, h]

/-- An access TERR traps reports its kind's EC value; only another exception due on it may be taken instead. -/
theorem attempt_errAccess_trapped {s : State} {reg : ErrReg} (kind : ErrKind) (len : Nat)
    (hl : live s.params s.env = true) (hras : s.params.haveRas = true) (ht : s.eff .verdict .terr = true)
    (hm : s.env.modeIsMonitor = false) (hreg : errTrapped s.params reg = true) :
    (s.env.errOtherException = false → attempt (.errAccess kind reg) len s = .fault (.monitorTrap (errCause kind)))
      ∧ (attempt (.errAccess kind reg) len s = .fault .lowerException
        ∨ attempt (.errAccess kind reg) len s = .fault (.monitorTrap (errCause kind))) := by
  have hverdict : s.verdict (.errAccess kind reg) = _ :=
    errVerdict_trapped kind (Config.free s.draws .errPriority) hl hras ht hm hreg
  rw [attempt_monitorTrap, attempt_lowerException, hverdict]
  refine ⟨fun hother => by simp [hother], ?_⟩
  split
  · exact .inl rfl
  · exact .inr rfl

/-- Settles O41: an access of the trapped set traps with its kind's EC value, and any other proceeds. -/
theorem errorRecordsAreTrappedByTerr : Obligations.ErrorRecordsAreTrappedByTerr := by
  intro s kind reg len
  refine ⟨fun hl hras ht hm hother hmisc => ?trapped, fun h => ?proceeds⟩
  case trapped =>
    have htrap := attempt_errAccess_trapped kind len hl hras ht hm ((errTrapped_eq_true _ _).2 ⟨hother, hmisc⟩)
    constructor
    · rintro (rfl | rfl) <;> exact htrap
    · rintro (rfl | rfl) <;> exact htrap
  case proceeds =>
    have hreasons := h.imp_right (Or.imp_right (Or.imp_right (Or.imp_right errTrapped_eq_false)))
    exact (attempt_eq_refused_proceeds _ _ _).2 ⟨errVerdict_proceeds _ _ hreasons, rfl⟩

/-! ## The frame of an attempt (R107) -/

theorem not_pending_or_masked_of_takeAsync_next {k : AsyncKind} {s t : State} (h : takeAsync k s = .next t) :
    asyncPending s.env k = false ∨ s.asyncMasked k = true := by
  unfold takeAsync at h
  split at h
  next hpending => exact .inl (by simpa using hpending)
  next =>
    split at h
    next => cases h
    next =>
      split at h
      next hmasked => exact .inr hmasked
      next => cases h

/-- Settles O42: the one next state of an attempt moves the pc, and the one of an exception not taken moves nothing. -/
theorem attemptFrame : Obligations.AttemptFrame :=
  ⟨fun _ _ _ _ => attempt_next, fun _ _ _ h => ⟨takeAsync_next h, not_pending_or_masked_of_takeAsync_next h⟩⟩

end Sys2Proof.Machine

namespace Sys2Proof.Machine

/-! ## When an instruction of the table is executed (R86, R135, R136) -/

theorem wellFormed_iff (i : Instr) :
    i.wellFormed = true ↔ (instrRt i).toNat < 15 ∧ instrCond i ≠ some 15#4 := by
  have hrt (rt : BitVec 4) : rtAdmitted rt = true ↔ rt.toNat < 15 := by revert rt; decide
  cases i <;> simp [Instr.wellFormed, hrt, condAdmitted, instrRt, instrCond, and_comm]

theorem passes_iff (i : Instr) (s : State) :
    passes i s = true ↔ instrCond i = some 14#4 ∨ s.env.condPassed = true := by
  simp [passes, conditionPassed]

/-- The operands are admitted and the condition passes: what is left to decide is the access. -/
structure Ready (i : Instr) (s : State) : Prop where
  rt_lt : (instrRt i).toNat < 15
  cond_ne : instrCond i ≠ some 15#4
  passed : passes i s = true

theorem Ready.of_wellFormed {i : Instr} {s : State} (hw : i.wellFormed = true) (hp : passes i s = true) : Ready i s :=
  have ⟨hrt, hc⟩ := (wellFormed_iff i).1 hw
  ⟨hrt, hc, hp⟩

theorem Ready.of_a32 {i : Instr} {s : State} {cond : BitVec 4} (hi : instrCond i = some cond) (hrt : (instrRt i).toNat < 15)
    (hc : cond ≠ 15#4) (hp : cond = 14#4 ∨ s.env.condPassed = true) : Ready i s where
  rt_lt := hrt
  cond_ne := by simpa [hi] using hc
  passed := (passes_iff i s).2 (by simpa [hi] using hp)

theorem Ready.of_t32 {i : Instr} {s : State} (hi : instrCond i = none) (hrt : (instrRt i).toNat < 15)
    (hp : s.env.condPassed = true) : Ready i s where
  rt_lt := hrt
  cond_ne := by simp [hi]
  passed := (passes_iff i s).2 (.inr hp)

/-! ## What an instruction of the table answers (R137, R172, R136) -/

theorem Ready.exec_of_allowed {i : Instr} {s : State} (h : Ready i s) (ha : s.CanAccessScr) :
    exec i s = .next ((transferOf (instrDir i) ⟨(instrRt i).toNat, h.rt_lt⟩ s).advancePc 4) := by
  rw [exec_eq_scrAccess]
  exact scrAccess_allowed _ _ _ _ h.rt_lt h.cond_ne h.passed ((accessCheck_eq_allowed s).2 ha)

theorem Ready.exec_mrc {i : Instr} {s : State} (h : Ready i s) (hd : instrDir i = .read) (ha : s.CanAccessScr) :
    exec i s = .next ((readScr ⟨(instrRt i).toNat, h.rt_lt⟩ s).advancePc 4) := by
  rw [h.exec_of_allowed ha, hd]; rfl

theorem Ready.exec_mcr {i : Instr} {s : State} (h : Ready i s) (hd : instrDir i = .write) (ha : s.CanAccessScr) :
    exec i s = .next ((writeScrFrom ⟨(instrRt i).toNat, h.rt_lt⟩ s).advancePc 4) := by
  rw [h.exec_of_allowed ha, hd]; rfl

theorem Ready.exec_of_stop {i : Instr} {s : State} {f : Fault} (h : Ready i s) (hs : s.accessCheck = .stop f) :
    exec i s = .fault f := by
  rw [exec_eq_scrAccess, scrAccess_eq_fault, regOf_eq_some _ h.rt_lt]
  exact ⟨rfl, h.cond_ne, hs, .inl h.passed⟩

theorem exec_of_rt_fifteen {i : Instr} (s : State) (h : instrRt i = 15#4) : exec i s = .refused .rtIs15 := by
  rw [exec_eq_scrAccess, scrAccess, h, (regOf_eq_none 15#4).2 rfl]

theorem condFail_of_allowed {s : State} (ha : s.CanAccessScr) : condFail s = .next (s.advancePc 4) := by
  rw [condFail, (accessCheck_eq_allowed s).2 ha]

theorem exec_of_condition_failed {i : Instr} {s : State} (hw : i.wellFormed = true) (hp : passes i s = false) :
    exec i s = condFail s := by
  obtain ⟨hrt, hc⟩ := (wellFormed_iff i).1 hw
  have hp : conditionPassed s.env (instrCond i) = false := hp
  simp [exec_eq_scrAccess, scrAccess, regOf_eq_some _ hrt, hc, hp]

/-- Every next state of an instruction of the table: the transfer of its direction, or nothing but the pc moved. -/
theorem exec_next_transfer {i : Instr} {s t : State} (h : exec i s = .next t) :
    (passes i s = true ∧ ∃ r, regOf (instrRt i) = some r ∧ t = (transferOf (instrDir i) r s).advancePc 4)
      ∨ (passes i s = false ∧ t = s.advancePc 4) := by
  rw [exec_eq_scrAccess] at h
  exact (scrAccess_next h).imp_left And.right

theorem regOf_val {t : BitVec 4} {r : Fin 15} (h : regOf t = some r) : r.val = t.toNat := by
  unfold regOf at h
  split at h
  · cases h; rfl
  · cases h

/-! ## The access check by Exception level (R132, R138) -/

theorem accessCheck_of_absent {s : State} (h : s.params.haveAA32EL3 = false) : s.accessCheck = .stop (.undefined .notSaid) := by
  simp [State.accessCheck, scrAccessCheck, h]

theorem accessCheck_of_el0_or_el2 {s : State} (he : s.env.el = .el0 ∨ s.env.el = .el2) :
    s.accessCheck = .stop (.undefined .notSaid) := by
  obtain he | he := he <;> simp [State.accessCheck, scrAccessCheck, he]

theorem accessCheck_of_el1 {s : State} (hp : s.params.haveAA32EL3 = true) (he : s.env.el = .el1) :
    s.accessCheck = .stop (
      if s.env.el2Enabled = true ∧ s.params.haveAA64EL2 = true ∧ s.env.el2Aarch32 = false ∧ s.env.hstrEl2T1 = true then
        .trapAArch64 .el2 0x03
      else if s.env.el2Enabled = true ∧ s.params.haveAA32EL2 = true ∧ s.env.el2Aarch32 = true ∧ s.env.hstrT1 = true then
        .hypTrap 0x03
      else if s.env.el2Enabled = true ∧ s.params.haveAA64EL2 = true ∧ s.env.el2Aarch32 = false ∧ s.isSecure = true then
        .trapAArch64 .el2 0x03
      else if s.params.haveAA64EL3 = true ∧ s.env.el3Aarch32 = false ∧ s.isSecure = true then
        .trapAArch64 .el3 0x03
      else .undefined .notSaid) := by
  simp only [State.accessCheck, scrAccessCheck, hp, he, accessEc, apply_ite Access.stop, Bool.and_eq_true, Bool.not_eq_true',
    and_assoc, Bool.not_true, Bool.false_eq_true, if_false]

/-! ## The value a write stores (R133, R134) -/

theorem getLsbD_and_not_one (v : Word) {n : Nat} (hn : n < 32) :
    (v &&& ~~~1#32).getLsbD n = (v.getLsbD n && decide (n ≠ 0)) := by
  rw [BitVec.getLsbD_and, BitVec.getLsbD_not, BitVec.getLsbD_one]
  simp [hn]

theorem and_not_one_of_clear {v : Word} (h : v.getLsbD 0 = false) : v &&& ~~~1#32 = v := by
  refine BitVec.eq_of_getLsbD_eq fun n hn => ?_
  rw [getLsbD_and_not_one v hn]
  obtain rfl | hpos := n.eq_zero_or_pos
  · rw [h, Bool.false_and]
  · simp [hpos.ne']

/-- R133 as a mask of bit 0: clearing a bit that is clear changes nothing, so the value written need not be asked for it. -/
theorem heldNs_eq_ite (e : Env) (old v : Word) :
    heldNs e old v =
      if e.hcrTge = true ∧ e.modeIsSecurePl1NotMonitor = true ∧ old.getLsbD 0 = false then v &&& ~~~1#32 else v := by
  cases hv : v.getLsbD 0 with
  | true => simp only [heldNs, fieldBit, fieldPos, hv, Bool.and_true, Bool.and_eq_true, Bool.not_eq_true', and_assoc]
  | false => simp only [heldNs, fieldBit, fieldPos, hv, Bool.and_false, and_not_one_of_clear hv, ite_self, Bool.false_eq_true]

theorem heldNs_self (e : Env) (v : Word) : heldNs e v v = v := by
  simp [heldNs]

theorem getLsbD_storedValue (p : Params) (v : Word) {n : Nat} (hn : n < 32) :
    (storedValue p v).getLsbD n = (v.getLsbD n && ((namedMask p).getLsbD n || p.res0ReadbackMask.getLsbD n)) := by
  simp only [storedValue, res0Mask, BitVec.getLsbD_or, BitVec.getLsbD_and, BitVec.getLsbD_not, hn, decide_true, Bool.true_and]
  cases v.getLsbD n <;> cases (namedMask p).getLsbD n <;> rfl

theorem getLsbD_storedValue_of_named {p : Params} (v : Word) {n : Nat} (h : (namedMask p).getLsbD n = true) :
    (storedValue p v).getLsbD n = v.getLsbD n := by
  simp [getLsbD_storedValue p v (BitVec.lt_of_getLsbD h), h]

theorem getLsbD_namedMask_ns (p : Params) : (namedMask p).getLsbD 0 = true := by
  simp [namedMask, alwaysNamedMask]

/-! ## The obligations on one access -/

/-- Settles O9: with the operands admitted and the access allowed, the transfer is `readScr`. -/
theorem readOfScrCompletes : Obligations.ReadOfScrCompletes := by
  intro s cond rt hrt ha
  refine ⟨fun hc hp => ?a32, fun hp => ?t32⟩
  case a32 => exact (Ready.of_a32 (i := .mrcScrA32 cond rt) rfl hrt hc hp).exec_mrc rfl ha
  case t32 => exact (Ready.of_t32 (i := .mrcScrT32 rt) rfl hrt hp).exec_mrc rfl ha

/-- Settles O10: the value `v` of the statement is R133's, and what is stored of it R134's. -/
theorem writeOfScrCompletes : Obligations.WriteOfScrCompletes := by
  intro s cond rt hrt v ha hv
  have hheld : v = heldNs s.env s.scr s.regs[rt.toNat] := hv.trans (heldNs_eq_ite ..).symm
  subst hheld
  refine ⟨fun hc hp => ?a32, fun hp => ?t32⟩
  case a32 => exact ⟨_, (Ready.of_a32 (i := .mcrScrA32 cond rt) rfl hrt hc hp).exec_mcr rfl ha, rfl, rfl, rfl⟩
  case t32 => exact ⟨_, (Ready.of_t32 (i := .mcrScrT32 rt) rfl hrt hp).exec_mcr rfl ha, rfl, rfl, rfl⟩

/-- Settles O11: R133 clears bit 0 alone and only where it holds, and R134 stores a named bit as it is. -/
theorem nsIsHeldUnderTge : Obligations.NsIsHeldUnderTge := by
  intro s i hrt ha hd hw hp
  refine ⟨_, (Ready.of_wellFormed hw hp).exec_mcr hd ha, rfl, ?held, ?free, ?others⟩
  all_goals simp only [State.advancePc_scr, writeScrFrom_scr, State.scrAfterWrite, State.reg_eq, heldNs_eq_ite]
  case held =>
    intro htge hmode hns
    rw [getLsbD_storedValue_of_named _ (getLsbD_namedMask_ns s.params), if_pos ⟨htge, hmode, hns⟩,
      getLsbD_and_not_one _ (by decide)]
    simp
  case free =>
    intro hfree
    rw [getLsbD_storedValue_of_named _ (getLsbD_namedMask_ns s.params), if_neg]
    rintro ⟨htge, hmode, hns⟩
    simp only [htge, hmode, hns, Bool.true_eq_false, Bool.false_eq_true, or_self] at hfree
  case others =>
    intro n hpos hn hnamed
    rw [getLsbD_storedValue_of_named _ hnamed]
    split
    · rw [getLsbD_and_not_one _ hn]
      simp [hpos.ne']
    · rfl

/-- Settles O12: the outcome is the access check's, level by level. -/
theorem accessOutcomesFollowThePriorityOrder : Obligations.AccessOutcomesFollowThePriorityOrder := by
  intro s i hw hp
  have hready := Ready.of_wellFormed hw hp
  refine ⟨fun habs => ?absent, fun hpres => ⟨fun he => ?el0, fun he => ?el2, fun he => ?el3, fun he => ?el1⟩⟩
  case absent => exact hready.exec_of_stop (accessCheck_of_absent habs)
  case el0 => exact hready.exec_of_stop (accessCheck_of_el0_or_el2 (.inl he))
  case el2 => exact hready.exec_of_stop (accessCheck_of_el0_or_el2 (.inr he))
  case el3 => exact ⟨_, hready.exec_of_allowed ⟨hpres, he⟩⟩
  case el1 => exact hready.exec_of_stop (accessCheck_of_el1 hpres he)

/-- Settles O13: the absence of SCR is the first thing the access check asks. -/
theorem absentScrIsUndefined : Obligations.AbsentScrIsUndefined := by
  intro s cond rt habs hrt
  have hstop := accessCheck_of_absent habs
  have hlt : rt.toNat < 15 := by bv_omega
  refine ⟨fun hc hp => ⟨?mrcA32, ?mcrA32⟩, fun hp => ⟨?mrcT32, ?mcrT32⟩⟩
  case mrcA32 | mcrA32 =>
    refine Ready.exec_of_stop ?_ hstop
    exact .of_a32 rfl hlt hc hp
  case mrcT32 | mcrT32 =>
    refine Ready.exec_of_stop ?_ hstop
    exact .of_t32 rfl hlt hp

/-- Settles O14: at EL1 the two traps to an AArch64 EL2 and the one to an AArch64 EL3 each ask for a level that uses AArch64. -/
theorem accessFromEl1UnderAArch32 : Obligations.AccessFromEl1UnderAArch32 := by
  intro s i f he h3 h2 h
  rw [exec_eq_scrAccess] at h
  have hstop := scrAccess_fault h
  cases hp : s.params.haveAA32EL3 with
  | false =>
    rw [accessCheck_of_absent hp] at hstop
    cases hstop
    exact .inr rfl
  | true =>
    rw [accessCheck_of_el1 hp he] at hstop
    simp only [h2, h3, Bool.true_eq_false, false_and, and_false, if_false, Access.stop.injEq] at hstop
    subst hstop
    split
    · exact .inl rfl
    · exact .inr rfl

/-- Settles O15: the register number is looked at first. -/
theorem rtFifteenIsRefused : Obligations.RtFifteenIsRefused := fun s _ =>
  ⟨exec_of_rt_fifteen s rfl, exec_of_rt_fifteen s rfl, exec_of_rt_fifteen s rfl, exec_of_rt_fifteen s rfl⟩

/-- Settles O16: a failed condition does nothing where the access is allowed; where it stops, it is in the outcome of the access
check, which does not read the condition. -/
theorem failedConditionDoesNothingOrStops : Obligations.FailedConditionDoesNothingOrStops := by
  intro s i hw hp
  rw [exec_of_condition_failed hw hp]
  refine ⟨condFail_of_allowed, (condFail_eq s).imp_right ?_⟩
  rintro ⟨f, hstop, hf⟩
  have hready : Ready i { s with env := { s.env with condPassed := true } } :=
    .of_wellFormed hw ((passes_iff _ _).2 (.inr rfl))
  exact ⟨f, hf, hready.exec_of_stop hstop⟩

/-! ## Two accesses in turn -/

/-- Settles O17: the MCR finds SCR in the register, R133 holds nothing of a value SCR has, and R134 stores it as it is. -/
theorem writingBackWhatWasReadChangesNothing : Obligations.WritingBackWhatWasReadChangesNothing := by
  intro s s1 s2 i j hstor _ hread hwrite hrt hpi hpj h1 h2
  obtain ⟨-, r, hr, rfl⟩ | ⟨hfail, -⟩ := exec_next_transfer h1
  case inr => exact absurd (hpi.symm.trans hfail) (by decide)
  rw [hread] at h2
  obtain ⟨-, q, hq, rfl⟩ | ⟨hfail, -⟩ := exec_next_transfer h2
  case inr => exact absurd (hpj.symm.trans hfail) (by decide)
  obtain rfl : r = q := Option.some.inj (hr.symm.trans (hrt ▸ hq))
  simp [hwrite, transferOf, State.scrAfterWrite, State.reg_eq, heldNs_self, storedValue_of_storable _ _ hstor]

/-! ## Frames -/

/-- Settles O19: `readScr` and the pc's advance write one register and the pc. -/
theorem readOfScrFrame : Obligations.ReadOfScrFrame := by
  intro s t i hd h
  obtain ⟨-, r, hr, rfl⟩ | ⟨-, rfl⟩ := exec_next_transfer h
  case inr => exact ⟨fun _ _ => rfl, rfl, rfl, rfl, rfl, rfl, rfl, rfl, rfl, fun _ => rfl⟩
  rw [hd]
  refine ⟨fun q hq => ?_, rfl, rfl, rfl, rfl, rfl, rfl, rfl, rfl, fun _ => rfl⟩
  exact State.reg_setReg_ne s r q s.scr fun e => hq (e ▸ regOf_val hr)

/-- Settles O20: `writeScrFrom` writes no register and nothing of the environment, and what it stores has 0 in the bits R134
clears. -/
theorem writeOfScrFrame : Obligations.WriteOfScrFrame := by
  intro s t i hd h
  obtain ⟨-, r, -, rfl⟩ | ⟨-, rfl⟩ := exec_next_transfer h
  case inr => exact ⟨rfl, rfl, rfl, rfl, rfl, fun _ => rfl, .inl rfl⟩
  rw [hd]
  refine ⟨rfl, rfl, rfl, rfl, rfl, fun _ => rfl, .inr fun n hn hnamed hback => ?_⟩
  exact (getLsbD_storedValue _ _ hn).trans (by rw [hnamed, hback]; exact Bool.and_false _)

/-! ## A run of quiet turns (R140) -/

theorem applyEnvEvent_schedule (e : EnvEvent) (s : State) : (applyEnvEvent e s).schedule = s.schedule := by
  cases e <;> rfl

theorem exec_schedule {i : Instr} {s t : State} (h : exec i s = .next t) : t.schedule = s.schedule := by
  obtain rfl | ⟨-, r, rfl | rfl⟩ := exec_next h <;> rfl

theorem runTurn_schedule {x : Turn} {s t : State} (h : runTurn x s = .next t) : t.schedule = s.schedule := by
  obtain ⟨-, i, bs, rest, -, -, hx⟩ | ⟨i, len, -, rfl⟩ | ⟨k, -, rfl⟩ | ⟨e, -, rfl⟩ := runTurn_next h
  · exact exec_schedule hx
  · rfl
  · rfl
  · exact applyEnvEvent_schedule e s

/-- A step uses up one turn of the schedule. -/
theorem step_schedule {s t : State} (h : step s = .next t) : t.schedule = s.schedule.tail := by
  obtain ⟨u, hu, rfl⟩ := step_next h
  rw [takeTurn_snd] at hu
  exact runTurn_schedule hu

theorem Turn.quiet_not_pe_not_reset {x : Turn} (h : x.quiet = true) : x ≠ .pe ∧ x.isReset = false := by
  unfold Turn.quiet at h
  split at h
  all_goals simp_all [Turn.isReset]

/-- A quiet turn keeps SCR: it is neither a Warm reset nor an instruction of the table. -/
theorem step_scr_of_quiet {s t : State} {x : Turn} {later : List Turn} (hs : s.schedule = x :: later) (hq : x.quiet = true)
    (h : step s = .next t) : t.scr = s.scr := by
  obtain ⟨hpe, hreset⟩ := Turn.quiet_not_pe_not_reset hq
  by_contra hne
  have hcause := onlyMcrAndResetChangeScr s t h hne
  rw [takeTurn_of_cons hs] at hcause
  obtain hr | ⟨hx, -⟩ := hcause
  · exact absurd hr (by simp [hreset])
  · exact hpe hx

theorem run_scr_of_quiet (n : Nat) : ∀ s t : State, n ≤ s.schedule.length →
    (∀ x ∈ s.schedule.take n, Turn.quiet x = true) → Host.Core.run Sys2Proof.core n s = .next t → t.scr = s.scr := by
  induction n with
  | zero => rintro s t - - ⟨⟩; rfl
  | succ n ih =>
    intro s t hlen hquiet h
    obtain ⟨u, hu, ht⟩ := run_succ_next h
    cases hs : s.schedule with
    | nil => simp [hs] at hlen
    | cons x later =>
      have hlater : u.schedule = later := by rw [step_schedule hu, hs]; rfl
      simp only [hs, List.take_succ_cons, List.forall_mem_cons, List.length_cons, Nat.add_le_add_iff_right] at hquiet hlen
      obtain ⟨hx, hrest⟩ := hquiet
      calc
        t.scr = u.scr := ih u t (by rwa [hlater]) (by rwa [hlater]) ht
        _ = s.scr := step_scr_of_quiet hs hx hu

/-- Settles O18: the run between keeps SCR, by induction on its length, so the MRC reads what the MCR stored. -/
theorem readAfterWriteSeesTheWrite : Obligations.ReadAfterWriteSeesTheWrite := by
  intro s s1 s2 i j n hi hj hwrite hread hwi hwj ha hpi h1 hlen hquiet hrun ha2 hpj
  have hstored : s1.scr = storedValue s.params (heldNs s.env s.scr s.regs[(instrRt i).toNat]) := by
    obtain rfl := Host.Outcome.next.inj (((Ready.of_wellFormed hwi hpi).exec_mcr hwrite ha).symm.trans h1)
    rfl
  refine ⟨_, (Ready.of_wellFormed hwj hpj).exec_mrc hread ha2, ?_⟩
  calc
    _ = s2.scr := State.reg_setReg_self s2 ⟨_, hj⟩ s2.scr
    _ = s1.scr := run_scr_of_quiet n s1 s2 hlen hquiet hrun
    _ = _ := hstored

end Sys2Proof.Machine

namespace Sys2Proof.Machine

/-! ## When a pending exception is taken, and where (R163 to R168) -/

section Pending
variable {k : AsyncKind} {s : State} (hlive : live s.params s.env = true) (hpending : asyncPending s.env k = true)
include hlive hpending

theorem takeAsync_of_unmasked (hm : s.asyncMasked k = false) :
    takeAsync k s = .fault (.taken k (asyncTarget k (s.eff .routing (routeField k)))) :=
  (takeAsync_eq_fault k s _).2 ⟨hpending, hlive, hm, rfl⟩

theorem exists_takeAsync_eq_fault : (∃ f, takeAsync k s = .fault f) ↔ s.asyncMasked k = false := by
  refine ⟨fun ⟨f, h⟩ => ?_, fun hm => ⟨_, takeAsync_of_unmasked hlive hpending hm⟩⟩
  obtain ⟨-, -, hm, -⟩ := (takeAsync_eq_fault k s f).1 h
  exact hm

end Pending

theorem takeAsync_fault_target {k : AsyncKind} {s : State} {f : Fault} (h : takeAsync k s = .fault f) :
    f = .taken k (asyncTarget k (s.eff .routing (routeField k))) := by
  obtain ⟨-, -, -, hf⟩ := (takeAsync_eq_fault k s f).1 h
  exact hf

/-- Settles O43: an IRQ is masked by its input alone, and its target is what the read of IRQ says. -/
theorem irqIsRoutedByIrq : Obligations.IrqIsRoutedByIrq := by
  intro s hl hp
  refine ⟨fun hm hr => ?zero, fun hm hr => ?one, fun hm f hf => ?masked⟩
  case zero | one =>
    have htaken := takeAsync_of_unmasked (k := .irq) hl hp hm
    rwa [routeField, hr] at htaken
  case masked =>
    have hun : s.env.irqMasked = false := (exists_takeAsync_eq_fault (k := .irq) hl hp).1 ⟨f, hf⟩
    exact absurd (hm.symm.trans hun) (by decide)

/-! ## The masking of FIQ and External abort (R166, R167) -/

theorem maskedByScr_of_nonsecure (pstate : Bool) : maskedByScr true false false false pstate = some false := rfl

theorem maskedByScr_of_pstate {w fromSecure : Bool} (h : w = true ∨ fromSecure = true) (pstate : Bool) :
    maskedByScr true false w fromSecure pstate = some pstate := by
  obtain rfl | rfl := h <;> simp [maskedByScr]

theorem maskedByScr_of_undecided {routed hcr : Bool} (h : routed = false ∨ hcr = true) (w fromSecure pstate : Bool) :
    maskedByScr routed hcr w fromSecure pstate = none := by
  obtain rfl | rfl := h <;> simp [maskedByScr]

theorem State.asyncMasked_fiq (s : State) : s.asyncMasked .fiq =
    (maskedByScr (s.eff .masking .fiq) s.env.hcrFmo (s.eff .masking .fw) s.isSecure s.env.pstateF).getD
      s.env.fiqMaskedOther := rfl

theorem State.asyncMasked_externalAbort (s : State) : s.asyncMasked .externalAbort =
    (maskedByScr (s.eff .masking .ea) s.env.hcrAmo (s.eff .masking .aw) s.isSecure s.env.pstateA).getD
      s.env.abortMaskedOther := rfl

/-! FIQ and External abort share one masking rule: over the routing field, the HCR bit, the masking field and the PSTATE bit of each,
and the input that masks it where SCR does not decide. -/

section SharedMask
variable {k : AsyncKind} {s : State} {routed hcr w pstate other : Bool}
  (hmask : s.asyncMasked k = (maskedByScr routed hcr w s.isSecure pstate).getD other)
  (hlive : live s.params s.env = true) (hpending : asyncPending s.env k = true)
include hmask hlive hpending

theorem exists_takeAsync_eq_fault_of_nonsecure (hr : routed = true) (hh : hcr = false) (hw : w = false)
    (hsec : s.isSecure = false) : ∃ f, takeAsync k s = .fault f := by
  rw [exists_takeAsync_eq_fault hlive hpending, hmask, hr, hh, hw, hsec, maskedByScr_of_nonsecure, Option.getD_some]

theorem exists_takeAsync_eq_fault_iff_pstate (hr : routed = true) (hh : hcr = false) (hw : w = true ∨ s.isSecure = true) :
    (∃ f, takeAsync k s = .fault f) ↔ pstate = false := by
  rw [exists_takeAsync_eq_fault hlive hpending, hmask, hr, hh, maskedByScr_of_pstate hw, Option.getD_some]

theorem exists_takeAsync_eq_fault_iff_other (hu : routed = false ∨ hcr = true) :
    (∃ f, takeAsync k s = .fault f) ↔ other = false := by
  rw [exists_takeAsync_eq_fault hlive hpending, hmask, maskedByScr_of_undecided hu, Option.getD_none]

end SharedMask

/-- Settles O44: the target is what the routing rule reads, and R167 is the shared masking rule over FIQ, FMO, FW and PSTATE.F. -/
theorem fiqIsRoutedByFiqAndMaskedByFw : Obligations.FiqIsRoutedByFiqAndMaskedByFw := fun s hl hp =>
  have hmask := s.asyncMasked_fiq
  ⟨fun _ => takeAsync_fault_target, exists_takeAsync_eq_fault_of_nonsecure hmask hl hp,
    exists_takeAsync_eq_fault_iff_pstate hmask hl hp, exists_takeAsync_eq_fault_iff_other hmask hl hp⟩

/-- Settles O45: the target is what the routing rule reads, and R166 is the shared masking rule over EA, AMO, AW and PSTATE.A. -/
theorem abortIsRoutedByEaAndMaskedByAw : Obligations.AbortIsRoutedByEaAndMaskedByAw := fun s hl hp =>
  have hmask := s.asyncMasked_externalAbort
  ⟨fun _ => takeAsync_fault_target, exists_takeAsync_eq_fault_of_nonsecure hmask hl hp,
    exists_takeAsync_eq_fault_iff_pstate hmask hl hp, exists_takeAsync_eq_fault_iff_other hmask hl hp⟩

/-! ## The hold of D24 (R176, R208) -/

theorem changesNsOutsideMonitor_iff (e : Env) (old new : Word) :
    changesNsOutsideMonitor e old new = true ↔ e.modeIsMonitor = false ∧ new.getLsbD 0 ≠ old.getLsbD 0 := by
  rw [changesNsOutsideMonitor, Bool.and_eq_true, Bool.not_eq_true', bne_iff_ne, ne_comm]
  rfl

theorem changesNsOutsideMonitor_self (e : Env) (v : Word) : changesNsOutsideMonitor e v v = false := by
  simp [changesNsOutsideMonitor]

/-- An instruction brings the hold where SCR.NS changes outside Monitor mode, and otherwise leaves it; a read and a failed condition
change nothing of SCR. -/
theorem exec_nsHold {i : Instr} {s t : State} (h : exec i s = .next t) :
    t.nsHold = (s.nsHold || changesNsOutsideMonitor s.env s.scr t.scr) := by
  obtain rfl | ⟨-, r, rfl | rfl⟩ := exec_next h
  case inr.inr => rfl
  all_goals simp [changesNsOutsideMonitor_self]

/-- Every turn but the PE's and a Warm reset leaves the hold as it was. -/
theorem runTurn_nsHold {x : Turn} {s t : State} (h : runTurn x s = .next t) (hx : x.isReset = false) :
    t.nsHold = s.nsHold ∨ (x = .pe ∧ t.nsHold = (s.nsHold || changesNsOutsideMonitor s.env s.scr t.scr)) := by
  obtain ⟨hpe, i, bs, rest, -, -, hi⟩ | ⟨i, len, -, rfl⟩ | ⟨k, -, rfl⟩ | ⟨e, rfl, rfl⟩ := runTurn_next h
  · exact .inr ⟨hpe, exec_nsHold hi⟩
  · exact .inl rfl
  · exact .inl rfl
  · cases e with
    | contextSync | tlbInvalidate | envChange e' => exact .inl rfl
    | warmReset l => cases hx

theorem step_nsHold {s t : State} (h : step s = .next t) (hx : (takeTurn s).1.isReset = false) :
    t.nsHold = s.nsHold
      ∨ ((takeTurn s).1 = .pe ∧ t.nsHold = (s.nsHold || changesNsOutsideMonitor s.env s.scr t.scr)) := by
  obtain ⟨u, hu, rfl⟩ := step_next h
  have hturn := runTurn_nsHold hu hx
  rwa [takeTurn_snd] at hturn

theorem Turn.exists_warmReset_of_isReset {x : Turn} (h : x.isReset = true) : ∃ l, x = .env (.warmReset l) := by
  unfold Turn.isReset at h
  split at h
  next l => exact ⟨l, rfl⟩
  next => cases h

/-- After a Warm reset nothing holds the PE (R200). -/
theorem step_nsHold_of_reset {s t : State} (h : step s = .next t) (hx : (takeTurn s).1.isReset = true) :
    t.nsHold = false := by
  obtain ⟨u, hu, rfl⟩ := step_next h
  obtain ⟨l, hl⟩ := Turn.exists_warmReset_of_isReset hx
  rw [hl] at hu
  cases hu
  rfl

theorem peTurn_of_held {s : State} (k : State → Result) (h : s.nsHold = true) :
    peTurn s k = .refused .nsChangedOutsideMonitor := by
  simp [peTurn, h]

/-- A turn of the PE, an attempt and a taken exception among them, is refused while the hold stands. -/
theorem runTurn_of_held {x : Turn} {s : State} (hn : s.nsHold = true) (hx : ∀ e, x ≠ .env e) :
    runTurn x s = .refused .nsChangedOutsideMonitor := by
  cases x with
  | pe => rw [runTurn, peStep, peTurn_of_held _ hn]
  | attempt i len | takeAsync k => rw [runTurn, peTurn_of_held _ hn]
  | env e => exact absurd rfl (hx e)

/-- Settles O46: an MCR sets the hold by the NS it stores, the hold refuses every turn of the PE, and no other turn but a Warm reset
touches it. -/
theorem nsChangedOutsideMonitorStopsThePe : Obligations.NsChangedOutsideMonitorStopsThePe := by
  refine ⟨fun s t i _ h => ⟨fun hm hns => ?sets, fun hno => ?leaves⟩, fun s hn hx => ?refused, fun s t hn h hx => ?stays,
    fun s t hn h ht => ?onlyThen⟩
  case sets => rw [exec_nsHold h, (changesNsOutsideMonitor_iff ..).2 ⟨hm, hns⟩, Bool.or_true]
  case leaves =>
    have hc : changesNsOutsideMonitor s.env s.scr t.scr = false := by
      rw [← Bool.not_eq_true, changesNsOutsideMonitor_iff]
      rintro ⟨hm, hns⟩
      exact hno.elim (fun hmon => absurd (hmon.symm.trans hm) (by decide)) hns
    rw [exec_nsHold h, hc, Bool.or_false]
  case refused =>
    exact (step_outcomes_of_runTurn (takeTurn_eq_of_fst rfl) (runTurn_of_held hn hx)).2.2 _ rfl
  case stays =>
    obtain hkeep | ⟨-, hor⟩ := step_nsHold h hx
    · exact hkeep.trans hn
    · rw [hor, hn, Bool.true_or]
  case onlyThen =>
    have hx : (takeTurn s).1.isReset = false := by
      refine Bool.eq_false_iff.2 fun hreset => ?_
      exact absurd (ht.symm.trans (step_nsHold_of_reset h hreset)) (by decide)
    obtain hkeep | ⟨hpe, hor⟩ := step_nsHold h hx
    · exact absurd (ht.symm.trans (hkeep.trans hn)) (by decide)
    · rw [ht, hn, Bool.false_or] at hor
      exact ⟨hpe, (changesNsOutsideMonitor_iff ..).1 hor.symm⟩

end Sys2Proof.Machine

namespace Sys2Proof.Machine

/-! ## The candidates of an indirect read (R51, R205, D9) -/

/-- Once settled, a field's one candidate is its value in SCR. -/
theorem State.Synced.mem_effSet_iff {s : State} (h : s.Synced) (f : Field) (b : Bool) :
    (s.effSet f).mem b = true ↔ fieldBit f s.scr = b := by
  rw [s.mem_effSet]
  constructor
  · rintro ⟨v, hv, hb⟩
    rwa [h.eq_scr_of_mem hv] at hb
  · exact fun hb => ⟨_, s.scr_mem_effCandidates, hb⟩

theorem effCandidates_writeScrFrom_of_lagging {s : State} (r : Fin 15) (h : s.params.scrWriteSync = .lagging) :
    (writeScrFrom r s).effCandidates = (writeScrFrom r s).scr :: s.effCandidates := by
  simp [State.effCandidates, h]

/-- A lagging write adds the value it stores to a field's candidates, and keeps them all. -/
theorem mem_effSet_writeScrFrom_of_lagging {s : State} (r : Fin 15) (h : s.params.scrWriteSync = .lagging) (f : Field)
    (b : Bool) : ((writeScrFrom r s).effSet f).mem b = true ↔
      ((s.effSet f).mem b = true ∨ fieldBit f (writeScrFrom r s).scr = b) := by
  rw [State.mem_effSet, State.mem_effSet, effCandidates_writeScrFrom_of_lagging r h, List.exists_mem_cons_iff, or_comm]

/-- Settles O31: the write adds its value to the candidates, a failed condition leaves them, and a settled field has one. -/
theorem writesReachIndirectReadsByTheirSet : Obligations.WritesReachIndirectReadsByTheirSet := by
  refine ⟨fun s t i hd h hlag f b => ?lagging, fun s himm => State.Synced.mem_effSet_iff (.inl himm), State.eff_mem_effSet⟩
  obtain ⟨-, r, -, rfl⟩ | ⟨-, rfl⟩ := exec_next_transfer h
  · rw [hd]
    exact mem_effSet_writeScrFrom_of_lagging r hlag f b
  · have hcurrent : fieldBit f s.scr = b → (s.effSet f).mem b = true :=
      fun hb => (s.mem_effSet f b).2 ⟨_, s.scr_mem_effCandidates, hb⟩
    exact (or_iff_left_of_imp hcurrent).symm

/-! ## A wait that is not trapped (R100, R101) -/

/-- A wait whose trap field is read 0 is not trapped. -/
theorem State.IsWait.verdict_ne_monitorTrap {s : State} {i : UnencodedInsn} {cause : TrapCause} {passed lower field : Bool}
    (h : s.IsWait i cause passed lower field) (hf : field = false) (c : TrapCause) : s.verdict i ≠ .monitorTrap c := by
  rw [h.verdict_eq, ne_eq, waitVerdict_monitorTrap, hf]
  simp

/-! ## SCR as a reset leaves it (R200, R41) -/

/-- SCR and everything an indirect read or a fetch sees of it hold 0 alone. -/
structure State.ScrCleared (s : State) : Prop where
  scr_eq : s.scr = 0#32
  effEarlier_eq : s.effEarlier = []
  tlbSif_has1 : s.tlbSif.has1 = false

theorem State.warmReset_scrCleared (s : State) (l : Launch) : (s.warmReset l).ScrCleared := ⟨rfl, rfl, rfl⟩

theorem fieldBit_zero (f : Field) : fieldBit f 0#32 = false := BitVec.getLsbD_zero

section ScrCleared
variable {s : State} (h : s.ScrCleared)
include h

theorem State.ScrCleared.synced : s.Synced := .inr h.effEarlier_eq

theorem State.ScrCleared.eff_eq_false (r : Reader) (f : Field) : s.eff r f = false := by
  rw [h.synced.eff_eq, h.scr_eq, fieldBit_zero, Bool.and_false]

theorem State.ScrCleared.effSet_mem_true (f : Field) : (s.effSet f).mem true = false := by
  rw [← Bool.not_eq_true, h.synced.mem_effSet_iff, h.scr_eq, fieldBit_zero]
  decide

theorem State.ScrCleared.sifSet_mem_true : s.sifSet.mem true = false := by
  rw [State.sifSet, BitSet.mem_union, h.effSet_mem_true, BitSet.mem_true, h.tlbSif_has1, Bool.or_false]

theorem State.ScrCleared.sifFetch_eq_false : s.sifFetch = false :=
  State.sifFetch_of_not_mem h.sifSet_mem_true

/-! ## What the reset value means (R202) -/

theorem State.ScrCleared.isSecure_of_live (hl : live s.params s.env = true) : s.isSecure = true := by
  rw [Machine.isSecure_of_live hl, h.eff_eq_false, Bool.not_false, Bool.or_true]

theorem State.ScrCleared.not_secureFetchStopped : secureFetchStopped s = false :=
  Machine.not_secureFetchStopped (.inr (.inr h.sifSet_mem_true))

theorem State.ScrCleared.verdict_hvc (hl : live s.params s.env = true) : s.verdict .hvc = .undefined .notSaid :=
  hvcVerdict_of_el0_or_secure _ _ (.inr (h.isSecure_of_live hl))

theorem State.ScrCleared.verdict_smc (h0 : s.env.el ≠ .el0) : s.verdict .smc = .proceeds :=
  smcVerdict_proceeds _ h0 (.inr (h.eff_eq_false _ _))

theorem State.ScrCleared.verdict_ne_monitorTrap (hl : live s.params s.env = true) (i : UnencodedInsn) (c : TrapCause) :
    s.verdict i ≠ .monitorTrap c := by
  cases i with
  | wfe cond => exact (s.isWait_wfe cond).verdict_ne_monitorTrap (h.eff_eq_false _ _) c
  | wfi cond => exact (s.isWait_wfi cond).verdict_ne_monitorTrap (h.eff_eq_false _ _) c
  | hvc => simp [h.verdict_hvc hl]
  | smc =>
    by_cases h0 : s.env.el = .el0
    · simp [State.verdict, smcVerdict_of_el0 _ _ _ h0]
    · simp [h.verdict_smc h0]
  | errAccess kind reg =>
    have hterr := h.eff_eq_false .verdict .terr
    simp [State.verdict, errVerdict_proceeds _ _ (.inr (.inr (.inl hterr)))]

/-- A kind that is taken goes to its own mode. -/
theorem State.ScrCleared.takeAsync_fault {k : AsyncKind} {f : Fault} (hf : takeAsync k s = .fault f) :
    f = .taken k (asyncTarget k false) := by
  rw [takeAsync_fault_target hf, h.eff_eq_false]

end ScrCleared

/-- Settles O27: the turn always answers, and leaves SCR and everything read of it cleared. -/
theorem warmResetClearsScr : Obligations.WarmResetClearsScr := by
  intro s l later hs
  have hcleared : State.ScrCleared { { s with schedule := later }.warmReset l with draws := s.draws + 1 } := ⟨rfl, rfl, rfl⟩
  exact ⟨_, step_of_env_turn hs, rfl, hcleared.effSet_mem_true, hcleared.eff_eq_false, hcleared.sifSet_mem_true,
    hcleared.sifFetch_eq_false, rfl, rfl, rfl, rfl, rfl, rfl⟩

/-- Settles O28: every rule reads 0 of its field, so the PE is Secure and each rule answers as its field at 0 says. -/
theorem afterResetNothingIsControlled : Obligations.AfterResetNothingIsControlled := by
  rintro s t l rfl hl
  have h := s.warmReset_scrCleared l
  exact ⟨h.isSecure_of_live hl, h.not_secureFetchStopped,
    fun i len c => mt (attempt_monitorTrap i len _ c).1 (h.verdict_ne_monitorTrap hl i c),
    fun len h0 => (attempt_eq_refused_proceeds .smc len _).2 ⟨h.verdict_smc h0, rfl⟩,
    fun len => (attempt_undefined .hvc len _ _).2 (h.verdict_hvc hl),
    fun _ => h.takeAsync_fault, fun _ => h.takeAsync_fault, fun _ => h.takeAsync_fault⟩

end Sys2Proof.Machine
